-- ==== Sys2Proof/Word.lean ====
section
/-! DEFINITION. The data types of the link engine that several files share: bytes, line drives, buttons, Reports. -/

namespace Sys2Proof

/-- A byte, bits numbered 7 down to 0 (R13). -/
abbrev Byte := BitVec 8

/-- What one driver does to an open-collector line: release it or drive it low (R21, R22). -/
inductive Drive where
  | rel
  | low
deriving DecidableEq, Repr, Inhabited

/-- The four logical buttons L, R, M, X (R39, R52). -/
inductive Btn where
  | l
  | r
  | m
  | x
deriving DecidableEq, Repr

/-- A logical button set, true meaning held (R39). -/
structure Buttons where
  l : Bool
  r : Bool
  m : Bool
  x : Bool
deriving DecidableEq, Repr

/-- The three bytes of a Report in arrival order: status, delta-X, delta-Y (R76). -/
structure Report where
  b0 : Byte
  b1 : Byte
  b2 : Byte
deriving DecidableEq, Repr

end Sys2Proof
end

