-- ==== Sys2Proof/Config.lean ====
section
/-! DEFINITION. The parameters of the step relation (R7 to R11, R56), the constants D00 fixes, the moves of the five agents, and the one free value of the model: which agent moves next. -/

namespace Sys2Proof.Config

open Sys2Proof

/-- The reporting mode, fixed at build time (R9). -/
inductive Mode where
  | stream
  | remote
deriving DecidableEq, Repr

/-- `MB_CAP`, the number of usable mailbox slots (R7, R145). -/
def mbCap : Nat := 16

/-- `PING_LEN` (R9). -/
def pingLen : Nat := 17

/-- `SCROLL_DIV` (R11). -/
def scrollDiv : Int := 8

/-- Every parameter the spec leaves OPEN (spec/92_eei_decisions.md section 2). Times are in milliseconds. -/
structure Params where
  mode : Mode
  sampleRate : Option Byte
  tTx : Nat
  tAck : Nat
  tBat : Nat
  tId : Nat
  tRep : Nat
  tStat : Nat
  tPoll : Nat
  jigStep : Nat
  jigMax : Nat
  jigAmp : Int
  hbEnable : Bool
  hbPeriod : Nat
  hbMax : Nat
  txAckWaitLow : Bool
  nStat : Nat
  cmdReset : Byte
  cmdEnable : Byte
  cmdDisable : Byte
  cmdSetRate : Byte
  cmdSetRemote : Byte
  cmdSetStream : Byte
  cmdReadData : Byte
  cmdStatus : Byte
  /-- `PING[0..16]`, the address space `PING` (R71, R120). -/
  ping : List Byte
  stL : Byte
  stR : Byte
  stM : Byte
  ovfMask : Byte
  extM0 : Byte
  extV0 : Byte
  extM1 : Byte
  extV1 : Byte
  auxtM0 : Byte
  auxtV0 : Byte
  auxtM1 : Byte
  auxtV1 : Byte
  auxScrBit : Fin 8
  auxMidBit : Fin 8
deriving DecidableEq, Repr

/-- The default table of R120. PRESUMED by the spec itself (its mark "from general knowledge"): log 14. -/
def pingDefault : List Byte :=
  [0xE8, 0x00, 0xE8, 0x03, 0xE8, 0x02, 0xE8, 0x01, 0xE6, 0xE8, 0x03, 0xE8, 0x01, 0xE8, 0x02, 0xE8, 0x03]

/-- The default column of spec/92_eei_decisions.md section 2: the values the test vectors use.
DESIGN CHOICE, unsafe (log 1): a statement about `State.reset` alone may lean on them, so every
statement quantifies over the record. -/
def defaults : Params where
  mode := .stream
  sampleRate := none
  tTx := 500
  tAck := 200
  tBat := 200
  tId := 200
  tRep := 200
  tStat := 200
  tPoll := 20
  jigStep := 30000
  jigMax := 3
  jigAmp := 1
  hbEnable := false
  hbPeriod := 30000
  hbMax := 60
  txAckWaitLow := false
  nStat := 3
  cmdReset := 0xFF
  cmdEnable := 0xF4
  cmdDisable := 0xF5
  cmdSetRate := 0xF3
  cmdSetRemote := 0xF0
  cmdSetStream := 0xEA
  cmdReadData := 0xEB
  cmdStatus := 0xE9
  ping := pingDefault
  stL := 0x01
  stR := 0x02
  stM := 0x04
  ovfMask := 0xC0
  extM0 := 0x48
  extV0 := 0x48
  extM1 := 0x02
  extV1 := 0x02
  auxtM0 := 0x30
  auxtV0 := 0x00
  auxtM1 := 0xF0
  auxtV1 := 0xD0
  auxScrBit := 4
  auxMidBit := 5

/-- The response bytes a device model sends by default (R117). The block compares none of them. PRESUMED: log 14. -/
def rspAckByte : Byte := 0xFA
def rspSelftestOkByte : Byte := 0xAA
def rspDeviceIdByte : Byte := 0x00

/-- The button masks name no bit twice (spec/93_implementation_defined.md I9). -/
def Params.buttonMasksDisjoint (p : Params) : Bool :=
  p.stL &&& p.stR == 0 && p.stL &&& p.stM == 0 && p.stR &&& p.stM == 0

/-- A receive-wait bound in the range of R8. -/
def receiveBoundOk (t : Nat) : Bool := decide (20 ≤ t) && decide (t ≤ 200)

/-- The ranges of spec/92_eei_decisions.md section 2 that limit a parameter. -/
def Params.wf (p : Params) : Bool :=
  receiveBoundOk p.tAck && receiveBoundOk p.tBat && receiveBoundOk p.tId && receiveBoundOk p.tRep &&
  receiveBoundOk p.tStat && decide (p.tPoll ≤ 200) && decide (p.ping.length = pingLen) &&
  decide (p.auxScrBit ≠ p.auxMidBit) && p.buttonMasksDisjoint

/-- One move of one agent (R20): the interrupt context or the loop context takes its next step, the
device changes one of its drives, the host changes one input, or the platform clock advances. -/
inductive Move where
  | isr
  | loop
  | devClk (x : Drive)
  | devDat (x : Drive)
  | hostSwap (v : Bool)
  | hostJiggle (v : Bool)
  | hostScroll (v : Bool)
  | hostSuspended (v : Bool)
  | clock (ms : Nat)
deriving DecidableEq, Repr, Inhabited

/-- The free value of the model: which agent makes the n-th move that nothing in `State.sched` has
fixed. The spec orders the agents in no way (R16, R20, R53); nothing constrains this constant (log 3). -/
opaque freeMove : Nat → Move

end Sys2Proof.Config
end

