-- ==== Sys2Proof/Machine/Bits.lean ====
section
/-! DEFINITION. Pure functions on bits, bytes and integers: parity, frames, sign extension, division, the tests on Report bytes, and little-endian lists of bytes. Nothing here reads the state. -/

namespace Sys2Proof.Machine

open Sys2Proof Sys2Proof.Config

/-- `b[i]` as a Boolean (R13). -/
def bit (b : Byte) (i : Nat) : Bool := b.getLsbD i

/-- `popcount(b)` (R14). -/
def popcount (b : Byte) : Nat := (List.range 8).countP (bit b)

/-- `oddpar(b) = 1 ^ (popcount(b) mod 2)` (R14). -/
def oddpar (b : Byte) : Bool := popcount b % 2 == 0

/-- The eleven bits of an F-FRAME in time order with the given parity bit (R101). -/
def frameBits (data : Byte) (p : Bool) : List Bool :=
  [false, bit data 0, bit data 1, bit data 2, bit data 3, bit data 4, bit data 5, bit data 6, bit data 7, p, true]

/-- `frame(b)` (R103). -/
def frameOf (b : Byte) : List Bool := frameBits b (oddpar b)

/-- `sext_8(b)` (R14). -/
def sext8 (b : Byte) : Int := b.toInt

/-- `u8(v)` (R14). -/
def u8 (v : Int) : Byte := BitVec.ofInt 8 v

/-- `tdiv(a, n)`: the quotient truncated toward zero (R14). -/
def tdiv (a n : Int) : Int := a.sign * ((a.natAbs / n.natAbs : Nat) : Int)

/-- The byte whose bit 7 is `d` and whose other bits are 0: what a received data bit is ORed in as (R163). -/
def topBit (d : Bool) : Byte := if d then 0x80 else 0x00

/-- `is_ext(rep)` (R110). -/
def isExt (p : Params) (r : Report) : Bool :=
  r.b0 &&& p.extM0 == p.extV0 && r.b1 &&& p.extM1 == p.extV1

/-- `is_auxbtn(rep)` (R111). -/
def isAuxbtn (p : Params) (r : Report) : Bool :=
  r.b0 &&& p.auxtM0 == p.auxtV0 && r.b1 &&& p.auxtM1 == p.auxtV1

/-- Little-endian value of a list of bytes. -/
def leNat : List Byte → Nat
  | [] => 0
  | b :: bs => b.toNat + 256 * leNat bs

/-- The first `k` bytes of `n`, least significant first. -/
def leBytes : Nat → Nat → List Byte
  | 0, _ => []
  | k + 1, n => BitVec.ofNat 8 n :: leBytes k (n / 256)

end Sys2Proof.Machine
end

