-- ==== Sys2Proof/Syntax.lean ====
section
/-! DEFINITION. The operations of the link engine: one constructor per row of spec/opcode_table.json, its operands those of the rule that defines it. -/

namespace Sys2Proof

/-- One row of spec/opcode_table.json each: the 28 operations of R130, the 14 procedures of R135, the
serial frame, the command and response bytes, the Report and extended packets, the ping table. -/
inductive Instr where
  -- format OP (R130)
  | mbPush (v : Byte)
  | mbPull
  | mbEmpty
  | mbReset
  | rxEdge
  | rxReset
  | txStart (b : Byte)
  | txReq1
  | txReq2
  | txReq3
  | txWaitDev
  | txBitSet
  | txBitHi
  | txBitLo
  | txStop
  | txWaitAck
  | txDone
  | txAbort
  | xdDecode
  | rtTranslate
  | rtEdges (vis : Buttons)
  | seStep (btn : Buttons) (dx dy : Int)
  | itRealEvent (activity : Bool)
  | itStep
  | mlIterBegin
  | mlRecover
  | mlHeartbeat
  | mlCheck
  -- format PROC (R135)
  | mbWait (t : Nat)
  | txSend (b : Byte)
  | sendCmd (b : Byte) (t : Nat)
  | bringUp
  | ssReset
  | ssRate
  | ssMode
  | ssPing (i : Nat)
  | ssEnable
  | getReport
  | processReport
  | loopIteration
  | busStop
  | reset
  -- format F-FRAME (R101)
  | frame (data : Byte) (p : Bool)
  -- format F-CMD (R115)
  | cmdReset
  | cmdEnable
  | cmdDisable
  | cmdSetRate
  | cmdSetRemote
  | cmdSetStream
  | cmdReadData
  | cmdStatus
  -- format F-RSP (R117)
  | rspAck
  | rspSelftestOk
  | rspDeviceId
  -- formats F-REPORT and F-EXT (R105, R110, R111)
  | report (r : Report)
  | extPacket (r : Report)
  | extAuxbtn (r : Report)
  -- format F-TABLE (R120)
  | ping00
  | ping01
  | ping02
  | ping03
  | ping04
  | ping05
  | ping06
  | ping07
  | ping08
  | ping09
  | ping10
  | ping11
  | ping12
  | ping13
  | ping14
  | ping15
  | ping16
deriving DecidableEq, Repr

end Sys2Proof
end

