-- ==== Sys2Proof/WellFormed.lean ====
section
/-! DEFINITION. Which operands an operation may have: the ranges the spec gives them and the ranges the model's own operation words can carry (log 6). -/

namespace Sys2Proof

open Sys2Proof.Machine

/-- Well-formed operations. Deltas as in R243; `PING` indices as in R71; a duration fits in 32 bits of an
operation word (log 6); a Report row is an extended packet or not by the default masks of its row (R113). -/
def Instr.wf : Instr → Bool
  | .mbPush _ | .mbPull | .mbEmpty | .mbReset | .rxEdge | .rxReset => true
  | .txStart _ | .txReq1 | .txReq2 | .txReq3 | .txWaitDev | .txBitSet | .txBitHi | .txBitLo => true
  | .txStop | .txWaitAck | .txDone | .txAbort => true
  | .xdDecode | .rtTranslate | .rtEdges _ => true
  | .seStep _ dx dy => decide (-128 ≤ dx) && decide (dx ≤ 127) && decide (-127 ≤ dy) && decide (dy ≤ 128)
  | .itRealEvent _ | .itStep | .mlIterBegin | .mlRecover | .mlHeartbeat | .mlCheck => true
  | .mbWait t => decide (t < 2 ^ 32)
  | .txSend _ => true
  | .sendCmd _ t => decide (t < 2 ^ 32)
  | .bringUp | .ssReset | .ssRate | .ssMode => true
  | .ssPing i => decide (i < Config.pingLen)
  | .ssEnable | .getReport | .processReport | .loopIteration | .busStop | .reset => true
  | .frame _ _ => true
  | .cmdReset | .cmdEnable | .cmdDisable | .cmdSetRate => true
  | .cmdSetRemote | .cmdSetStream | .cmdReadData | .cmdStatus => true
  | .rspAck | .rspSelftestOk | .rspDeviceId => true
  | .report r => !isExt Config.defaults r
  | .extPacket r => isExt Config.defaults r && !isAuxbtn Config.defaults r
  | .extAuxbtn r => isExt Config.defaults r && isAuxbtn Config.defaults r
  | .ping00 | .ping01 | .ping02 | .ping03 | .ping04 | .ping05 | .ping06 | .ping07 | .ping08 => true
  | .ping09 | .ping10 | .ping11 | .ping12 | .ping13 | .ping14 | .ping15 | .ping16 => true

end Sys2Proof
end

