-- ==== Sys2Proof/Decode.lean ====
section
/-! DEFINITION. Operation words: the decoder, total on any bytes and rejecting by name; the encoder; and the reading of a word of spec/opcode_table.json. The hardware fetches no operation (R58, R130: "None has a wire encoding"), so the 8-byte operation word is the model's own carrier of the table's encodings (log 5, log 6): byte 0 the table's 8 bits, bytes 1 to 6 the operands, byte 7 the format; a frame or a Report stands in the low bits. -/

namespace Sys2Proof

open Sys2Proof.Machine

/-- Why bytes are no operation word. -/
inductive DecodeError where
  /-- Not exactly eight bytes. -/
  | badLength
  /-- Byte 7 names no format of R100. -/
  | badFormat
  /-- No operation or procedure has this ordinal (R130, R135). -/
  | badOrdinal
  /-- A command, response or table byte that no row has. -/
  | badByte
  /-- An operand outside its range, or operand bytes that are not 0 where there is no operand. -/
  | badOperand
  /-- Not eleven bits with start 0 and stop 1 (R101). -/
  | badFrame
  /-- Not 24 bits, or the wrong one of the formats F-REPORT and F-EXT (R110). -/
  | badReport
deriving DecidableEq, Repr

/-! ## Fields -/

/-- The set of buttons as four bits, L least significant. -/
def buttonsNat (b : Buttons) : Nat := b.l.toNat + 2 * b.r.toNat + 4 * b.m.toNat + 8 * b.x.toNat

/-- The set whose four bits are `n`. -/
def natButtons (n : Nat) : Buttons := ⟨n.testBit 0, n.testBit 1, n.testBit 2, n.testBit 3⟩

/-- The eleven bits of a frame as a number, `f[0]` in bit 10 and `f[10]` in bit 0 (the table's FRAME row). -/
def frameNat (data : Byte) (p : Bool) : Nat := (frameBits data p).foldl (fun acc b => 2 * acc + b.toNat) 0

/-- The data byte of an eleven-bit frame number: data bit `k` is `f[k+1]`, bit `9 - k` of the number. -/
def natFrameData (v : Nat) : Byte :=
  BitVec.ofNat 8 ((List.range 8).foldl (fun acc k => acc + if v.testBit (9 - k) then 2 ^ k else 0) 0)

/-- `{rep[0], rep[1], rep[2]}` as a 24-bit number (R113). -/
def reportNat (r : Report) : Nat := r.b0.toNat * 65536 + r.b1.toNat * 256 + r.b2.toNat

/-- The Report of a 24-bit number. -/
def natReport (v : Nat) : Report := ⟨BitVec.ofNat 8 (v / 65536), BitVec.ofNat 8 (v / 256), BitVec.ofNat 8 v⟩

/-- The default table byte at an index (R120), 256 where there is none. -/
def pingByte (k : Nat) : Nat := ((Config.pingDefault[k]?).map BitVec.toNat).getD 256

/-- The row PING_<k> of the table. -/
def pingInstr : Nat → Option Instr
  | 0 => some .ping00
  | 1 => some .ping01
  | 2 => some .ping02
  | 3 => some .ping03
  | 4 => some .ping04
  | 5 => some .ping05
  | 6 => some .ping06
  | 7 => some .ping07
  | 8 => some .ping08
  | 9 => some .ping09
  | 10 => some .ping10
  | 11 => some .ping11
  | 12 => some .ping12
  | 13 => some .ping13
  | 14 => some .ping14
  | 15 => some .ping15
  | 16 => some .ping16
  | _ => none

/-! ## Decoding -/

/-- An operation without operands: its operand bytes are 0. -/
def nullary (i : Instr) (o : Nat) : Except DecodeError Instr := if o = 0 then .ok i else .error .badOperand

/-- An operation whose only operand is smaller than `bound`. -/
def bounded (bound o : Nat) (i : Instr) : Except DecodeError Instr :=
  if o < bound then .ok i else .error .badOperand

/-- Formats OP and PROC: the ordinal `c` (R130, R135) and the operand bytes as one number `o`. -/
def decodeOp (c o : Nat) : Except DecodeError Instr :=
  match c with
  | 0x00 => bounded 256 o (.mbPush (BitVec.ofNat 8 o))
  | 0x01 => nullary .mbPull o
  | 0x02 => nullary .mbEmpty o
  | 0x03 => nullary .mbReset o
  | 0x04 => nullary .rxEdge o
  | 0x05 => nullary .rxReset o
  | 0x06 => bounded 256 o (.txStart (BitVec.ofNat 8 o))
  | 0x07 => nullary .txReq1 o
  | 0x08 => nullary .txReq2 o
  | 0x09 => nullary .txReq3 o
  | 0x0A => nullary .txWaitDev o
  | 0x0B => nullary .txBitSet o
  | 0x0C => nullary .txBitHi o
  | 0x0D => nullary .txBitLo o
  | 0x0E => nullary .txStop o
  | 0x0F => nullary .txWaitAck o
  | 0x10 => nullary .txDone o
  | 0x11 => nullary .txAbort o
  | 0x12 => nullary .xdDecode o
  | 0x13 => nullary .rtTranslate o
  | 0x14 => bounded 16 o (.rtEdges (natButtons o))
  | 0x15 =>
    if o < 2 ^ 24 ∧ o % 256 < 16 then
      .ok (.seStep (natButtons (o % 256)) (sext8 (BitVec.ofNat 8 (o / 256))) (-sext8 (BitVec.ofNat 8 (o / 65536))))
    else .error .badOperand
  | 0x16 => bounded 2 o (.itRealEvent (o.testBit 0))
  | 0x17 => nullary .itStep o
  | 0x18 => nullary .mlIterBegin o
  | 0x19 => nullary .mlRecover o
  | 0x1A => nullary .mlHeartbeat o
  | 0x1B => nullary .mlCheck o
  | 0x40 => bounded (2 ^ 32) o (.mbWait o)
  | 0x41 => bounded 256 o (.txSend (BitVec.ofNat 8 o))
  | 0x42 => bounded (2 ^ 40) o (.sendCmd (BitVec.ofNat 8 o) (o / 256))
  | 0x43 => nullary .bringUp o
  | 0x44 => nullary .ssReset o
  | 0x45 => nullary .ssRate o
  | 0x46 => nullary .ssMode o
  | 0x47 => bounded Config.pingLen o (.ssPing o)
  | 0x48 => nullary .ssEnable o
  | 0x49 => nullary .getReport o
  | 0x4A => nullary .processReport o
  | 0x4B => nullary .loopIteration o
  | 0x4C => nullary .busStop o
  | 0x4D => nullary .reset o
  | _ => .error .badOrdinal

/-- Format F-FRAME (R101): eleven bits, start 0 and stop 1; the parity bit may be either, as in the table's pattern. -/
def decodeFrame (v : Nat) : Except DecodeError Instr :=
  if v < 2 ^ 11 ∧ v.testBit 10 = false ∧ v.testBit 0 = true then .ok (.frame (natFrameData v) (v.testBit 1))
  else .error .badFrame

/-- Format F-REPORT: a Report that is no extended packet by the row's default masks (R105, R110). -/
def decodeReport (v : Nat) : Except DecodeError Instr :=
  if v < 2 ^ 24 ∧ isExt Config.defaults (natReport v) = false then .ok (.report (natReport v)) else .error .badReport

/-- Format F-EXT: an extended packet, of the auxiliary-button subtype or of another (R110, R111). -/
def decodeExt (v : Nat) : Except DecodeError Instr :=
  if v < 2 ^ 24 ∧ isExt Config.defaults (natReport v) = true then
    if isAuxbtn Config.defaults (natReport v) then .ok (.extAuxbtn (natReport v)) else .ok (.extPacket (natReport v))
  else .error .badReport

/-- Format F-CMD: the default command bytes (R115). -/
def decodeCmd (c o : Nat) : Except DecodeError Instr :=
  match c with
  | 0xFF => nullary .cmdReset o
  | 0xF4 => nullary .cmdEnable o
  | 0xF5 => nullary .cmdDisable o
  | 0xF3 => nullary .cmdSetRate o
  | 0xF0 => nullary .cmdSetRemote o
  | 0xEA => nullary .cmdSetStream o
  | 0xEB => nullary .cmdReadData o
  | 0xE9 => nullary .cmdStatus o
  | _ => .error .badByte

/-- Format F-RSP: the default response bytes (R117). -/
def decodeRsp (c o : Nat) : Except DecodeError Instr :=
  match c with
  | 0xFA => nullary .rspAck o
  | 0xAA => nullary .rspSelftestOk o
  | 0x00 => nullary .rspDeviceId o
  | _ => .error .badByte

/-- Format F-TABLE: the byte at an index of the default table (R120). -/
def decodeTable (c o : Nat) : Except DecodeError Instr :=
  match pingInstr o with
  | some i => if pingByte o = c then .ok i else .error .badByte
  | none => .error .badOperand

/-- The 64 bits of an operation word. -/
def decodeWord (w : Nat) : Except DecodeError Instr :=
  match w / 2 ^ 56 with
  | 0 => decodeOp (w % 256) (w / 256)
  | 1 => decodeFrame (w % 2 ^ 56)
  | 2 => decodeReport (w % 2 ^ 56)
  | 3 => decodeExt (w % 2 ^ 56)
  | 4 => decodeCmd (w % 256) (w / 256 % 2 ^ 48)
  | 5 => decodeRsp (w % 256) (w / 256 % 2 ^ 48)
  | 6 => decodeTable (w % 256) (w / 256 % 2 ^ 48)
  | _ => .error .badFormat

/-- The decoder: eight bytes, least significant first. -/
def decode (bs : List Byte) : Except DecodeError Instr :=
  if bs.length = 8 then decodeWord (leNat bs) else .error .badLength

/-! ## Encoding -/

/-- An operation word from its format, its 8 table bits and its operand bytes. -/
def opWord (f c o : Nat) : Nat := c + 256 * o + 2 ^ 56 * f

/-- The 64 bits of the operation word of an operation. -/
def encodeWord : Instr → Nat
  | .mbPush v => opWord 0 0x00 v.toNat
  | .mbPull => opWord 0 0x01 0
  | .mbEmpty => opWord 0 0x02 0
  | .mbReset => opWord 0 0x03 0
  | .rxEdge => opWord 0 0x04 0
  | .rxReset => opWord 0 0x05 0
  | .txStart b => opWord 0 0x06 b.toNat
  | .txReq1 => opWord 0 0x07 0
  | .txReq2 => opWord 0 0x08 0
  | .txReq3 => opWord 0 0x09 0
  | .txWaitDev => opWord 0 0x0A 0
  | .txBitSet => opWord 0 0x0B 0
  | .txBitHi => opWord 0 0x0C 0
  | .txBitLo => opWord 0 0x0D 0
  | .txStop => opWord 0 0x0E 0
  | .txWaitAck => opWord 0 0x0F 0
  | .txDone => opWord 0 0x10 0
  | .txAbort => opWord 0 0x11 0
  | .xdDecode => opWord 0 0x12 0
  | .rtTranslate => opWord 0 0x13 0
  | .rtEdges vis => opWord 0 0x14 (buttonsNat vis)
  | .seStep btn dx dy => opWord 0 0x15 (buttonsNat btn + 256 * (u8 dx).toNat + 65536 * (u8 (-dy)).toNat)
  | .itRealEvent activity => opWord 0 0x16 activity.toNat
  | .itStep => opWord 0 0x17 0
  | .mlIterBegin => opWord 0 0x18 0
  | .mlRecover => opWord 0 0x19 0
  | .mlHeartbeat => opWord 0 0x1A 0
  | .mlCheck => opWord 0 0x1B 0
  | .mbWait t => opWord 0 0x40 t
  | .txSend b => opWord 0 0x41 b.toNat
  | .sendCmd b t => opWord 0 0x42 (b.toNat + 256 * t)
  | .bringUp => opWord 0 0x43 0
  | .ssReset => opWord 0 0x44 0
  | .ssRate => opWord 0 0x45 0
  | .ssMode => opWord 0 0x46 0
  | .ssPing i => opWord 0 0x47 i
  | .ssEnable => opWord 0 0x48 0
  | .getReport => opWord 0 0x49 0
  | .processReport => opWord 0 0x4A 0
  | .loopIteration => opWord 0 0x4B 0
  | .busStop => opWord 0 0x4C 0
  | .reset => opWord 0 0x4D 0
  | .frame data p => frameNat data p + 2 ^ 56 * 1
  | .cmdReset => opWord 4 0xFF 0
  | .cmdEnable => opWord 4 0xF4 0
  | .cmdDisable => opWord 4 0xF5 0
  | .cmdSetRate => opWord 4 0xF3 0
  | .cmdSetRemote => opWord 4 0xF0 0
  | .cmdSetStream => opWord 4 0xEA 0
  | .cmdReadData => opWord 4 0xEB 0
  | .cmdStatus => opWord 4 0xE9 0
  | .rspAck => opWord 5 0xFA 0
  | .rspSelftestOk => opWord 5 0xAA 0
  | .rspDeviceId => opWord 5 0x00 0
  | .report r => reportNat r + 2 ^ 56 * 2
  | .extPacket r => reportNat r + 2 ^ 56 * 3
  | .extAuxbtn r => reportNat r + 2 ^ 56 * 3
  | .ping00 => opWord 6 0xE8 0
  | .ping01 => opWord 6 0x00 1
  | .ping02 => opWord 6 0xE8 2
  | .ping03 => opWord 6 0x03 3
  | .ping04 => opWord 6 0xE8 4
  | .ping05 => opWord 6 0x02 5
  | .ping06 => opWord 6 0xE8 6
  | .ping07 => opWord 6 0x01 7
  | .ping08 => opWord 6 0xE6 8
  | .ping09 => opWord 6 0xE8 9
  | .ping10 => opWord 6 0x03 10
  | .ping11 => opWord 6 0xE8 11
  | .ping12 => opWord 6 0x01 12
  | .ping13 => opWord 6 0xE8 13
  | .ping14 => opWord 6 0x02 14
  | .ping15 => opWord 6 0xE8 15
  | .ping16 => opWord 6 0x03 16

/-- The eight bytes of the operation word, least significant first. -/
def encode (i : Instr) : List Byte := leBytes 8 (encodeWord i)

/-! ## Words of spec/opcode_table.json

A row of the table does not say its format in its bits, and rows of different formats share values: the
ordinal 0x00, the device ID and PING_01 are all 00000000. A word of the table is read by its length and,
within a length, in the order below (log 5). -/

/-- The first index from `k` on, of `n` indices, whose table byte is `b`. -/
def pingIndexFrom (b : Nat) : Nat → Nat → Option Nat
  | 0, _ => none
  | n + 1, k => if pingByte k = b then some k else pingIndexFrom b n (k + 1)

/-- The index `k` of 8..15 whose row the 16-bit word is, the table's one index bit (bit `k`) set. -/
def pingRow16 (w : Nat) : Option Nat :=
  (List.range 8).findSome? fun j => if w = pingByte (8 + j) + 2 ^ (8 + j) then some (8 + j) else none

/-- The operation word of an 8-bit word: an ordinal, else a command byte, else a response byte, else the first ping byte. -/
def tableWord8 (c : Nat) : Nat :=
  if c ≤ 0x1B ∨ (0x40 ≤ c ∧ c ≤ 0x4D) then opWord 0 c 0
  else if c ∈ [0xFF, 0xF4, 0xF5, 0xF3, 0xF0, 0xEA, 0xEB, 0xE9] then opWord 4 c 0
  else if c ∈ [0xFA, 0xAA] then opWord 5 c 0
  else match pingIndexFrom c 17 0 with
    | some k => opWord 6 c k
    | none => opWord 0 c 0

/-- The operation word of a 16-bit word: a table row with its index bit, else an eleven-bit frame, else a table byte alone. -/
def tableWord16 (w : Nat) : Nat :=
  match pingRow16 w with
  | some k => opWord 6 (pingByte k) k
  | none =>
    if w.testBit 0 = true ∧ w.testBit 10 = false then w % 2 ^ 11 + 2 ^ 56 * 1
    else match pingIndexFrom w 8 8 with
      | some k => opWord 6 w k
      | none => w % 2 ^ 11 + 2 ^ 56 * 1

/-- The operation word of a 24-bit word: an extended packet or a Report (R110). -/
def tableWord24 (w : Nat) : Nat :=
  if isExt Config.defaults (natReport (w % 2 ^ 24)) then w % 2 ^ 24 + 2 ^ 56 * 3 else w % 2 ^ 24 + 2 ^ 56 * 2

/-- The bytes of the operation word of a table word of `nbits` bits. -/
def tableBytes (nbits w : Nat) : List Byte :=
  leBytes 8 (if nbits ≤ 8 then tableWord8 (w % 256) else if nbits ≤ 16 then tableWord16 (w % 65536) else tableWord24 w)

/-- The operation the decoder reads from a word of spec/opcode_table.json. -/
def decodeTableWord (nbits w : Nat) : Option Instr := (decode (tableBytes nbits w)).toOption

end Sys2Proof
end

