-- ==== Sys2Proof/Machine/State.lean ====
section
/-! DEFINITION. The state of the machine as plain data, the reasons a step can stop, and the state right after reset. -/

namespace Sys2Proof.Machine

open Sys2Proof Sys2Proof.Config

/-- The transmitter's sequencer (R33). `done` is the successor of a successful TX_WAIT_ACK (R189; DEDUCED, log 8);
`ackLow` is the extra wait for the acknowledge bit, entered only with `TX_ACK_WAIT_LOW` (R189, D15; log 9). -/
inductive TxPhase where
  | off
  | req1
  | req2
  | req3
  | waitDev
  | bitSet
  | bitHi
  | bitLo
  | stop
  | ackLow
  | waitAck
  | done
deriving DecidableEq, Repr

/-- The Session State (R36). -/
inductive Sess where
  | idle
  | resetting
  | negotiating
  | streaming
  | remotePolling
  | desync
deriving DecidableEq, Repr

/-- The position in bring-up (R37). -/
inductive SsStep where
  | reset
  | rate
  | mode
  | ping (i : Fin 17)
  | enable
  | done
deriving DecidableEq, Repr

/-- The Main Loop's state (R42). -/
inductive LoopState where
  | normal
  | recovering
deriving DecidableEq, Repr

/-- The causes of a link error (R300). -/
inductive LinkError where
  | start
  | parity
  | stop
  | txTimeout
  | hsTimeout
  | reportTimeout
  | overflow
deriving DecidableEq, Repr

/-- An event of the host stream (R52). -/
inductive Event where
  | move (dx dy dz : Int)
  | press (b : Btn)
  | release (b : Btn)
deriving DecidableEq, Repr

/-- What the last operation of the loop context returned to its caller (log 7). -/
inductive Ret where
  /-- Nothing yet. -/
  | void
  /-- A Boolean: MB_EMPTY, SE_STEP (`moved`), RT_EDGES (`changed`). -/
  | flag (b : Bool)
  /-- `some(v)` or `none`: MB_PULL, mb_wait. -/
  | byte (r : Option Byte)
  /-- `ok` or `fail`: tx_send, the bring-up and its steps, ML_HEARTBEAT. -/
  | status (ok : Bool)
  /-- `ok(v)` or `fail`: send_cmd, expect. -/
  | reply (r : Option Byte)
  /-- `HANDLED` (true) or `NOT_EXT`: XD_DECODE. -/
  | decoded (handled : Bool)
  /-- `OVERFLOW` (true) or `OK`: ML_CHECK. -/
  | checked (overflow : Bool)
  /-- The result of RT_TRANSLATE. -/
  | translated (btn : Buttons) (dx dy : Int)
  /-- `some(rep)` or `none`: get_report. -/
  | report (r : Option Report)
deriving DecidableEq, Repr

/-- A return point inside a procedure of the loop context: where it goes on once the operation it
called has returned (log 7). -/
inductive Cont where
  /-- The poll loop of mb_wait, with its deadline (R146). -/
  | mbPoll (deadline : Nat)
  /-- The second step of bus_stop (R192). -/
  | busStopDat
  /-- send_cmd after tx_send (R203). -/
  | cmdSent (t : Nat)
  /-- send_cmd or expect after mb_wait (R203, R204). -/
  | hsReply
  /-- SS_RESET before the self-test byte, then before the ID byte (R211). -/
  | resetBat
  | resetId
  /-- SS_RATE before its argument byte (R212). -/
  | rateArg (r : Byte)
  /-- bring_up after the step `ss_step` names (R210). -/
  | bringUpNext
  /-- ML_HEARTBEAT after its request, then after a status byte with `left` more to come (R284). -/
  | hbRequested
  | hbByte (left : Nat)
  /-- get_report after its request, then after a wait for a byte; `polled`: a request was sent (R285). -/
  | repRequested
  | repByte (polled : Bool)
  /-- process_report after each of its operations (R287). -/
  | prDecoded
  | prChecked
  | prTranslated
  | prScrolled (btn : Buttons)
  | prEdged (moved : Bool)
  /-- loop_iteration after each of its parts (R280). -/
  | liBegun
  | liRecovered
  | liBeat
  | liGot
deriving DecidableEq, Repr

/-- One entry of the loop context's control stack (log 7). -/
inductive Task where
  /-- Run this operation or procedure. -/
  | op (i : Instr)
  /-- tx_send in progress: run the operation `tx_phase` names until it is TX_OFF (R180). -/
  | txRun
  /-- Go on in a procedure. -/
  | k (c : Cont)
deriving DecidableEq, Repr

/-- The whole machine. INVENTORY.md lists each field with the rule that names it. -/
structure State where
  -- the bus (R22, R54)
  hClk : Drive
  hDat : Drive
  dClk : Drive
  dDat : Drive
  clkPrev : Bool
  -- Link Receiver (R26 to R29, R55)
  rxPos : Fin 11
  rxAcc : Byte
  rxPar : Bool
  rxIe : Bool
  rxPending : Bool
  -- shared by the two contexts (R30, R31)
  err : BitVec 8
  mb : List Byte
  -- Link Transmitter (R33 to R35)
  txPhase : TxPhase
  txByte : Byte
  txI : Fin 9
  txDeadline : Nat
  -- Session Controller (R36, R37)
  sess : Sess
  ssStep : SsStep
  -- Extended-Protocol Decoder, Report Translator, Scroll Emulator (R38 to R40)
  auxMid : Bool
  auxScr : Bool
  btnPrev : Buttons
  scrollAcc : Int
  -- Idle-Prevention Timer (R41)
  tLast : Nat
  jigN : Nat
  -- Main Loop (R42 to R45)
  loopState : LoopState
  cfgSwap : Bool
  cfgJiggle : Bool
  cfgScroll : Bool
  rep : Report
  repN : Fin 4
  hbN : Nat
  tHb : Nat
  -- the environment the rules read (R50 to R52)
  now : Nat
  inSwap : Bool
  inJiggle : Bool
  inScroll : Bool
  hostSuspended : Bool
  hostOut : List Event
  -- where the loop context is inside its procedures (log 7)
  ctl : List Task
  ret : Ret
  -- the configuration record, changed by no step (R56, log 1)
  par : Params
  -- the model's own: operation slot (log 4), moves already ordered and free moves taken (log 3)
  slot : Option (List Byte)
  sched : List Move
  nFree : Nat
deriving DecidableEq, Repr

/-- Why the machine stops with a fault. -/
inductive Fault where
  /-- Raised by a read of the address space PING outside 0..16 (R71): the location does not exist. Safe:
  the machine stops where the spec gives no value. No run of the loop context reaches it. -/
  | pingIndex
deriving DecidableEq, Repr

/-- Why a step is given no meaning. -/
inductive Refusal where
  /-- Raised by an arm of `exec` whose operation has no meaning yet. Safe. No arm raises it now. -/
  | notModelled (mnemonic : String)
  /-- Raised by the step when the bytes in the operation slot are no operation word. Safe. -/
  | undecodable
  /-- Raised by an operation whose enabling condition does not hold: RX_EDGE with no edge to serve or the
  interrupt disabled (R160), a transmitter operation outside its own phase (R182, R183). Safe: in the
  hardware the operation does not occur then (R16). -/
  | notEnabled
  /-- Raised by TX_START and tx_send while a send is in progress (R180; 93_implementation_defined.md I25). Safe. -/
  | txBusy
  /-- Raised by RT_TRANSLATE when the button masks overlap (93_implementation_defined.md I9). Safe. -/
  | overlappingButtonMasks
deriving DecidableEq, Repr

/-- The machine right after power-on reset (R61, R340). Fields R61 leaves unspecified, and the
environment's, hold the values of log 2; the parameters are the defaults (log 1); nothing is scheduled. -/
def State.reset : State where
  hClk := .rel
  hDat := .rel
  dClk := .rel
  dDat := .rel
  clkPrev := true
  rxPos := 0
  rxAcc := 0x00
  rxPar := true
  rxIe := false
  rxPending := false
  err := 0x00
  mb := []
  txPhase := .off
  txByte := 0x00
  txI := 0
  txDeadline := 0
  sess := .idle
  ssStep := .reset
  auxMid := false
  auxScr := false
  btnPrev := ⟨false, false, false, false⟩
  scrollAcc := 0
  tLast := 0
  jigN := 0
  loopState := .normal
  cfgSwap := false
  cfgJiggle := false
  cfgScroll := false
  rep := ⟨0x00, 0x00, 0x00⟩
  repN := 0
  hbN := 0
  tHb := 0
  now := 0
  inSwap := false
  inJiggle := false
  inScroll := false
  hostSuspended := false
  hostOut := []
  ctl := []
  ret := .void
  par := Config.defaults
  slot := none
  sched := []
  nFree := 0

end Sys2Proof.Machine
end

