-- ==== Sys2Proof/Machine/Operands.lean ====
section
/-! DEFINITION. Operand forms: the fields of a Report, a bit to send, a byte of the PING space, the value an operation returned. -/

namespace Sys2Proof.Machine

open Sys2Proof Sys2Proof.Config

/-- The primary buttons of a status byte (R240): left, right and middle. -/
def primaryL (p : Params) (r : Report) : Bool := r.b0 &&& p.stL != 0
def primaryR (p : Params) (r : Report) : Bool := r.b0 &&& p.stR != 0
def primaryM (p : Params) (r : Report) : Bool := r.b0 &&& p.stM != 0

/-- `dx` of a motion Report (R106, R243). -/
def deltaX (r : Report) : Int := sext8 r.b1

/-- `dy` of a motion Report, the vertical axis inverted over the integers (R106, R243). -/
def deltaY (r : Report) : Int := -sext8 r.b2

/-- The logical button set of RT_TRANSLATE from the raw bits, under a setting of the swap (R241). -/
def logicalButtons (swap pL pR pM auxMid auxScr : Bool) : Buttons :=
  if swap then ⟨pR, pL, pM || auxScr, auxMid⟩ else ⟨pL, pR, pM || auxMid, auxScr⟩

/-- The set shown to the host (R244). -/
def shownButtons (cfgScroll : Bool) (btn : Buttons) : Buttons := { btn with x := btn.x && !cfgScroll }

/-- `rep[k] <- v` (R285). -/
def putReportByte (r : Report) (k : Nat) (v : Byte) : Report :=
  match k with
  | 0 => { r with b0 := v }
  | 1 => { r with b1 := v }
  | _ => { r with b2 := v }

/-- The bit TX_BIT_SET puts on the line: a data bit, or the parity bit at index 8 (R34, R186). -/
def txBit (b : Byte) (i : Fin 9) : Bool := if i.val < 8 then bit b i.val else oddpar b

/-- The drive that puts a bit on a line (R24). -/
def driveOf (v : Bool) : Drive := if v then .rel else .low

/-- `MemRead(PING, i, 1)` (R15, R71): nothing outside indices 0..16. -/
def pingRead (p : Params) (i : Nat) : Option Byte := if i < pingLen then p.ping[i]? else none

/-- The byte a wait returned, if it returned one (R146). -/
def Ret.byteGot : Ret → Option Byte
  | .byte r => r
  | .void | .flag _ | .status _ | .reply _ | .decoded _ | .checked _ | .translated _ _ _ | .report _ => none

/-- Whether a sending procedure or a bring-up step returned `ok` (R203, R210). -/
def Ret.isOk : Ret → Bool
  | .status ok => ok
  | .reply r => r.isSome
  | .void | .flag _ | .byte _ | .decoded _ | .checked _ | .translated _ _ _ | .report _ => false

/-- Whether XD_DECODE returned `HANDLED` (R231). -/
def Ret.isHandled : Ret → Bool
  | .decoded h => h
  | .void | .flag _ | .byte _ | .status _ | .reply _ | .checked _ | .translated _ _ _ | .report _ => false

/-- Whether ML_CHECK returned `OVERFLOW` (R288). -/
def Ret.isOverflow : Ret → Bool
  | .checked o => o
  | .void | .flag _ | .byte _ | .status _ | .reply _ | .decoded _ | .translated _ _ _ | .report _ => false

/-- The Boolean SE_STEP or RT_EDGES returned (R246, R262). -/
def Ret.isTrue : Ret → Bool
  | .flag b => b
  | .void | .byte _ | .status _ | .reply _ | .decoded _ | .checked _ | .translated _ _ _ | .report _ => false

/-- Whether get_report returned a Report (R285). -/
def Ret.gotReport : Ret → Bool
  | .report r => r.isSome
  | .void | .flag _ | .byte _ | .status _ | .reply _ | .decoded _ | .checked _ | .translated _ _ _ => false

end Sys2Proof.Machine
end

