-- ==== Sys2Proof/Machine/Flags.lean ====
section
/-! DEFINITION. The block's flags and derived predicates (R59): the running parity, `err` as a Boolean, `mb_empty`, `mb_full`, `held`, and the levels of the two lines. -/

namespace Sys2Proof.Machine

open Sys2Proof Sys2Proof.Config

/-- The wired-AND of two drivers: high when both release the line (R23). -/
def wiredAnd (a b : Drive) : Bool := a == .rel && b == .rel

/-- `rd_clk()` (R23). -/
def State.clk (s : State) : Bool := wiredAnd s.hClk s.dClk

/-- `rd_dat()` (R23). -/
def State.dat (s : State) : Bool := wiredAnd s.hDat s.dDat

/-- The running parity flag after a data bit `d` (R163). -/
def parityNext (par d : Bool) : Bool := par ^^ d

/-- The accumulator after a data bit `d` (R163). -/
def accNext (acc : Byte) (d : Bool) : Byte := (acc >>> 1) ||| topBit d

/-- `err != 0`: an unrecovered link error (R30). -/
def State.linkErrorFlag (s : State) : Bool := s.err != 0

/-- `mb_empty` (R59). -/
def State.mbEmpty (s : State) : Bool := s.mb.isEmpty

/-- `mb_full` (R59). -/
def State.mbFull (s : State) : Bool := decide (mbCap ≤ s.mb.length)

/-- `held = btn.X && cfg_scroll` (R261). -/
def State.held (s : State) (btn : Buttons) : Bool := btn.x && s.cfgScroll

/-- Either overflow bit of the status byte (R288). -/
def overflowFlag (p : Params) (r : Report) : Bool := r.b0 &&& p.ovfMask != 0

end Sys2Proof.Machine
end

