-- ==== Sys2Proof/Machine/Ops.lean ====
section
/-! DEFINITION. The named operations over the state that the meanings share: driving the lines and the edge detector, the interrupt enable, the receiver's registers, the mailbox, the event stream, calling and returning in the loop context, raising a link error, entering recovery and returning from it. -/

namespace Sys2Proof.Machine

open Sys2Proof Sys2Proof.Config

/-- The three outcomes of an operation of this machine. -/
abbrev Out := Host.Outcome State Fault Refusal

/-! ## The bus -/

/-- The edge detector after a change of a clock drive: a fall of `clk` while `rx_ie = 1` becomes the one
pending edge, a fall while `rx_ie = 0` is lost, a second one merges (R54, R55). -/
def State.edgeDetect (s : State) : State :=
  { s with rxPending := s.rxPending || (s.clkPrev && !s.clk && s.rxIe), clkPrev := s.clk }

/-- `drv_clk(x)` (R24). -/
def State.drvClk (x : Drive) (s : State) : State := State.edgeDetect { s with hClk := x }

/-- `drv_dat(x)` (R24). -/
def State.drvDat (x : Drive) (s : State) : State := { s with hDat := x }

/-- The device changes its clock drive (R22). -/
def State.devClk (x : Drive) (s : State) : State := State.edgeDetect { s with dClk := x }

/-- The device changes its data drive (R22). -/
def State.devDat (x : Drive) (s : State) : State := { s with dDat := x }

/-- `bus_stop()`: clock low, then data released (R192). -/
def State.busStop (s : State) : State := (s.drvClk .low).drvDat .rel

/-! ## The receiver's registers and the interrupt enable -/

/-- `rx_ie <- v`; writing 0 drops a pending edge (R29, R55). -/
def State.setRxIe (v : Bool) (s : State) : State := { s with rxIe := v, rxPending := s.rxPending && v }

/-- `idle()` of RX_EDGE (R166). -/
def State.rxIdle (s : State) : State := { s with rxPos := 0, rxAcc := 0x00, rxPar := true }

/-- `RX_RESET()` (R168). -/
def State.rxReset (s : State) : State := { s.rxIdle with rxPending := false }

/-! ## The mailbox -/

/-- Append as newest unless full (R141). -/
def mailboxPush (mb : List Byte) (v : Byte) : List Byte := if mb.length < mbCap then mb ++ [v] else mb

/-- `MB_PUSH(v)` (R141). -/
def State.mbPush (v : Byte) (s : State) : State := { s with mb := mailboxPush s.mb v }

/-- `MB_PULL()` (R142): the oldest byte is removed and returned, `none` when empty. -/
def State.mbPull (s : State) : State := { s with mb := s.mb.tail, ret := .byte s.mb.head? }

/-- `MB_RESET()` (R144). -/
def State.mbReset (s : State) : State := { s with mb := [] }

/-! ## The host, and calling and returning in the loop context -/

/-- `emit` of several events in order (R15, R52). -/
def State.emit (es : List Event) (s : State) : State := { s with hostOut := s.hostOut ++ es }

/-- The loop context has these to do next (log 7). -/
def State.call (ts : List Task) (s : State) : State := { s with ctl := ts ++ s.ctl }

/-- `return r` to the caller (log 7). -/
def State.returning (r : Ret) (s : State) : State := { s with ret := r }

/-! ## Link errors: raise, entry to recovery, return from recovery -/

/-- The code each cause writes into `err` (R300). -/
def LinkError.code : LinkError → BitVec 8
  | .start => 0x01
  | .parity => 0x02
  | .stop => 0x03
  | .txTimeout => 0x04
  | .hsTimeout => 0x05
  | .reportTimeout => 0x06
  | .overflow => 0x07

/-- `raise LinkError(code)`: `err <- code` and nothing else (R301). -/
def State.raise (e : LinkError) (s : State) : State := { s with err := e.code }

/-- What a loop procedure does on an error it detects itself: raise, and `sess <- DESYNC` (R220, R285, R284, R288). -/
def State.raiseDesync (e : LinkError) (s : State) : State := { s.raise e with sess := .desync }

/-- Entry to recovery, the body of ML_RECOVER in its order: interrupt off, receiver to idle, bus stopped,
error flag cleared, mailbox emptied (R290, R310). -/
def State.takeRecovery (s : State) : State :=
  { (s.setRxIe false).rxReset.busStop with err := 0x00 }.mbReset

/-- Return from recovery (R312). -/
def State.returnFromRecovery (s : State) : State := { s with loopState := .normal }

/-! ## Sending -/

/-- `TX_ABORT` (R191). -/
def State.txAbort (s : State) : State :=
  { s.busStop.raise .txTimeout with txPhase := .off }.returning (.status false)

/-- The common form of every wait of the transmitter: the condition first, then the deadline (R183). -/
def State.txWait (s : State) (cond : Bool) (onCond : State) : State :=
  if cond then onCond else if s.now ≥ s.txDeadline then s.txAbort else s

/-- Call `send_cmd(b, T_ACK)`. -/
def State.callSendCmd (b : Byte) (s : State) : State := s.call [.op (.sendCmd b s.par.tAck)]

end Sys2Proof.Machine
end

