-- ==== Sys2Proof/Machine/Decoder.lean ====
section
/-! DEFINITION. Extended-Protocol Decoder: XD_DECODE (spec/44_extended_decoder.md). -/

namespace Sys2Proof.Machine

open Sys2Proof Sys2Proof.Config

/-- The body of XD_DECODE on the Report in `rep` (R231, R232). -/
def State.xdDecode (s : State) : State :=
  if isExt s.par s.rep then
    (if isAuxbtn s.par s.rep then
      { s with auxScr := bit s.rep.b2 s.par.auxScrBit.val, auxMid := bit s.rep.b2 s.par.auxMidBit.val }
    else s).returning (.decoded true)
  else s.returning (.decoded false)

/-- XD_DECODE (R231). -/
def execXdDecode (s : State) : Out := .next s.xdDecode

end Sys2Proof.Machine
end

