-- ==== Sys2Proof/Machine/IdleTimer.lean ====
section
/-! DEFINITION. Idle-Prevention Timer: IT_REAL_EVENT, IT_STEP (spec/47_idle_timer.md). -/

namespace Sys2Proof.Machine

open Sys2Proof Sys2Proof.Config

/-- IT_REAL_EVENT(activity) (R271). -/
def execItRealEvent (activity : Bool) (s : State) : Out :=
  .next (if activity then { s with jigN := 0, tLast := s.now } else s)

/-- Whether IT_STEP fires (R272). -/
def State.nudgeDue (s : State) : Bool :=
  s.cfgJiggle && !s.hostSuspended && decide (s.jigN < s.par.jigMax) &&
  decide (s.now - s.tLast > (s.jigN + 1) * s.par.jigStep)

/-- IT_STEP (R272). -/
def execItStep (s : State) : Out :=
  .next (if s.nudgeDue then
    { s.emit [.move s.par.jigAmp 0 0, .move (-s.par.jigAmp) 0 0] with jigN := s.jigN + 1 }
  else s)

end Sys2Proof.Machine
end

