-- ==== Sys2Proof/Machine/Mailbox.lean ====
section
/-! DEFINITION. Link Mailbox: MB_PUSH, MB_PULL, MB_EMPTY, MB_RESET, mb_wait (spec/40_link_mailbox.md). -/

namespace Sys2Proof.Machine

open Sys2Proof Sys2Proof.Config

/-- MB_PUSH(v) (R141). -/
def execMbPush (v : Byte) (s : State) : Out := .next (s.mbPush v)

/-- MB_PULL (R142). -/
def execMbPull (s : State) : Out := .next s.mbPull

/-- MB_EMPTY (R143). -/
def execMbEmpty (s : State) : Out := .next (s.returning (.flag s.mbEmpty))

/-- MB_RESET (R144). -/
def execMbReset (s : State) : Out := .next s.mbReset

/-- mb_wait(T) (R146): the deadline is fixed here, the poll loop follows. -/
def execMbWait (t : Nat) (s : State) : Out := .next (s.call [.k (.mbPoll (s.now + t))])

/-- One pass of the poll loop of mb_wait: the pull comes before the test of the deadline (R146). -/
def resumeMbPoll (deadline : Nat) (s : State) : State :=
  if s.mbEmpty && decide (s.now < deadline) then s.mbPull.call [.k (.mbPoll deadline)] else s.mbPull

end Sys2Proof.Machine
end

