-- ==== Sys2Proof/Machine/MainLoop.lean ====
section
/-! DEFINITION. Main Loop: ML_ITER_BEGIN, ML_RECOVER, ML_HEARTBEAT, ML_CHECK, get_report, process_report, loop_iteration (spec/48_main_loop.md), and reset (spec/70_reset_and_hazards.md). -/

namespace Sys2Proof.Machine

open Sys2Proof Sys2Proof.Config

/-- Whether an iteration must recover (R281). -/
def State.mustRecover (s : State) : Bool := s.linkErrorFlag || s.sess == .idle || s.sess == .desync

/-- The Session State once an iteration has found it must recover (R281). -/
def desyncIfRunning : Sess → Sess
  | .streaming | .remotePolling => .desync
  | .idle => .idle
  | .resetting => .resetting
  | .negotiating => .negotiating
  | .desync => .desync

/-- The three switches are latched (R43, R281). -/
def State.latchSwitches (s : State) : State :=
  { s with cfgSwap := s.inSwap, cfgJiggle := s.inJiggle, cfgScroll := s.inScroll }

/-- ML_ITER_BEGIN (R281). -/
def execMlIterBegin (s : State) : Out :=
  .next (if s.mustRecover then { s.latchSwitches with sess := desyncIfRunning s.sess, loopState := .recovering }
    else s.latchSwitches)

/-- ML_RECOVER (R290). -/
def execMlRecover (s : State) : Out := .next s.takeRecovery

/-- Whether ML_HEARTBEAT issues a request (R284). -/
def State.heartbeatDue (s : State) : Bool :=
  s.par.hbEnable && s.par.mode == .stream && decide (s.hbN < s.par.hbMax) && decide (s.now - s.tHb ≥ s.par.hbPeriod)

/-- The status request and its response bytes (R115, R284). -/
def State.callStatus (s : State) : State := s.call [.op (.sendCmd s.par.cmdStatus s.par.tAck), .k .hbRequested]

/-- ML_HEARTBEAT (R284). -/
def execMlHeartbeat (s : State) : Out :=
  .next (if s.heartbeatDue then { s with hbN := s.hbN + 1, tHb := s.now }.callStatus else s.returning (.status true))

/-- Take `n` status bytes, each to be discarded (R284). -/
def State.callStatusBytes (n : Nat) (s : State) : State :=
  match n with
  | 0 => s.returning (.status true)
  | left + 1 => s.call [.op (.mbWait s.par.tStat), .k (.hbByte left)]

/-- ML_HEARTBEAT after its request (R284). -/
def resumeHbRequested (s : State) : State :=
  if s.ret.isOk then s.callStatusBytes s.par.nStat else { s with sess := .desync }.returning (.status false)

/-- ML_HEARTBEAT after the wait for a status byte (R284). -/
def resumeHbByte (left : Nat) (s : State) : State :=
  match s.ret.byteGot with
  | some _ => s.callStatusBytes left
  | none => (s.raiseDesync .reportTimeout).returning (.status false)

/-- ML_CHECK (R288). -/
def execMlCheck (s : State) : Out :=
  .next (if overflowFlag s.par s.rep then (s.raiseDesync .overflow).returning (.checked true)
    else s.returning (.checked false))

/-- The read request and its Report (R115, R285). -/
def State.callReadData (s : State) : State :=
  { s with repN := 0 }.call [.op (.sendCmd s.par.cmdReadData s.par.tAck), .k .repRequested]

/-- get_report (R285). -/
def execGetReport (s : State) : Out :=
  .next (match s.par.mode with
    | .remote => s.callReadData
    | .stream => { s with repN := 0 }.call [.op (.mbWait s.par.tPoll), .k (.repByte false)])

/-- get_report after its request (R285). -/
def resumeRepRequested (s : State) : State :=
  if s.ret.isOk then s.call [.op (.mbWait s.par.tRep), .k (.repByte true)]
  else { s with sess := .desync }.returning (.report none)

/-- get_report with a byte got: it is stored, and the next is waited for or the Report is whole (R285). -/
def State.storeReportByte (polled : Bool) (v : Byte) (s : State) : State :=
  if s.repN.val < 2 then
    { s with rep := putReportByte s.rep s.repN.val v, repN := s.repN + 1 }.call
      [.op (.mbWait s.par.tRep), .k (.repByte polled)]
  else { s with rep := putReportByte s.rep 2 v, repN := 3 }.returning (.report (some (putReportByte s.rep 2 v)))

/-- get_report after the wait for a byte (R285, R286): a time-out is no error only for the first byte of a
Report that was not requested. -/
def resumeRepByte (polled : Bool) (s : State) : State :=
  match s.ret.byteGot with
  | some v => s.storeReportByte polled v
  | none =>
    if polled || s.repN != 0 then (s.raiseDesync .reportTimeout).returning (.report none)
    else s.returning (.report none)

/-- process_report (R287). -/
def execProcessReport (s : State) : Out := .next (s.call [.op .xdDecode, .k .prDecoded])

/-- process_report after XD_DECODE (R233, R287). -/
def resumePrDecoded (s : State) : State := if s.ret.isHandled then s else s.call [.op .mlCheck, .k .prChecked]

/-- process_report after ML_CHECK (R287, R288). -/
def resumePrChecked (s : State) : State := if s.ret.isOverflow then s else s.call [.op .rtTranslate, .k .prTranslated]

/-- process_report after RT_TRANSLATE (R287). -/
def resumePrTranslated (s : State) : State :=
  match s.ret with
  | .translated btn dx dy => s.call [.op (.seStep btn dx dy), .k (.prScrolled btn)]
  | .void | .flag _ | .byte _ | .status _ | .reply _ | .decoded _ | .checked _ | .report _ => s

/-- process_report after SE_STEP (R244, R287). -/
def resumePrScrolled (btn : Buttons) (s : State) : State :=
  s.call [.op (.rtEdges (shownButtons s.cfgScroll btn)), .k (.prEdged s.ret.isTrue)]

/-- process_report after RT_EDGES (R287). -/
def resumePrEdged (moved : Bool) (s : State) : State := s.call [.op (.itRealEvent (moved || s.ret.isTrue))]

/-- loop_iteration (R280). -/
def execLoopIteration (s : State) : Out := .next (s.call [.op .mlIterBegin, .k .liBegun])

/-- loop_iteration after ML_ITER_BEGIN (R280). -/
def resumeLiBegun (s : State) : State :=
  match s.loopState with
  | .recovering => s.call [.op .mlRecover, .op .bringUp, .k .liRecovered]
  | .normal => s.call [.op .mlHeartbeat, .k .liBeat]

/-- loop_iteration after the recovery (R280, R291, R312). -/
def resumeLiRecovered (s : State) : State := s.returnFromRecovery.call [.op .itStep]

/-- loop_iteration after ML_HEARTBEAT (R280). -/
def resumeLiBeat (s : State) : State :=
  if s.ret.isOk then s.call [.op .getReport, .k .liGot] else s.call [.op .itStep]

/-- loop_iteration after get_report (R280, R289). -/
def resumeLiGot (s : State) : State :=
  if s.ret.gotReport then s.call [.op .processReport, .op .itStep] else s.call [.op .itStep]

/-- reset (R340): the block at the values of R61; the environment, the parameters and the order of moves
are not the block's and stay. -/
def execReset (s : State) : Out :=
  .next { State.reset with
    dClk := s.dClk, dDat := s.dDat, clkPrev := wiredAnd .rel s.dClk,
    tLast := s.now, tHb := s.now, now := s.now,
    inSwap := s.inSwap, inJiggle := s.inJiggle, inScroll := s.inScroll, hostSuspended := s.hostSuspended,
    par := s.par, slot := s.slot, sched := s.sched, nFree := s.nFree }

end Sys2Proof.Machine
end

