-- ==== Sys2Proof/Machine/Receiver.lean ====
section
/-! DEFINITION. Link Receiver: RX_EDGE, RX_RESET (spec/41_link_receiver.md). -/

namespace Sys2Proof.Machine

open Sys2Proof Sys2Proof.Config

/-- `fail(code)` of RX_EDGE (R167). -/
def State.rxFail (e : LinkError) (s : State) : State := (s.raise e).rxIdle

/-- What RX_EDGE does with a sampled bit `d` at the position `rx_pos` (R162 to R165). -/
def State.rxBit (d : Bool) (s : State) : State :=
  if s.rxPos = 0 then
    if d then s.rxFail .start else { s with rxPos := 1 }
  else if s.rxPos.val ≤ 8 then
    { s with rxAcc := accNext s.rxAcc d, rxPar := parityNext s.rxPar d, rxPos := s.rxPos + 1 }
  else if s.rxPos = 9 then
    if d = s.rxPar then { s with rxPos := 10 } else s.rxFail .parity
  else
    if d then (s.mbPush s.rxAcc).rxIdle else s.rxFail .stop

/-- The body of RX_EDGE: both lines are sampled once; a high clock is a spurious edge (R161, R170). -/
def State.rxEdge (s : State) : State :=
  if s.clk then { s with rxPending := false } else State.rxBit s.dat { s with rxPending := false }

/-- The enabling condition of RX_EDGE (R160). -/
def State.rxEnabled (s : State) : Bool := s.rxIe && s.rxPending

/-- RX_EDGE (R170). -/
def execRxEdge (s : State) : Out := if s.rxEnabled then .next s.rxEdge else .refused .notEnabled

/-- RX_RESET (R168). -/
def execRxReset (s : State) : Out := .next s.rxReset

end Sys2Proof.Machine
end

