-- ==== Sys2Proof/Machine/Scroll.lean ====
section
/-! DEFINITION. Scroll Emulator and motion emission: SE_STEP (spec/46_scroll_emulator.md). -/

namespace Sys2Proof.Machine

open Sys2Proof Sys2Proof.Config

/-- Emit one motion event unless the host is suspended (R262, R267). -/
def State.emitMove (dx dy dz : Int) (s : State) : State :=
  if s.hostSuspended then s else s.emit [.move dx dy dz]

/-- Whether a Report moves: a non-zero delta (R262, R268). -/
def moves (dx dy : Int) : Bool := dx != 0 || dy != 0

/-- Emit a non-zero tick and clear the accumulator (R262). -/
def State.scrollTick (tick : Int) (s : State) : State :=
  if tick = 0 then s else { s.emitMove 0 0 tick with scrollAcc := 0 }

/-- SE_STEP while the scroll-role button is held (R262): the primary tick, else the accumulator's. -/
def State.scrollHeld (dy : Int) (s : State) : State :=
  if tdiv dy scrollDiv = 0 then
    State.scrollTick (tdiv (s.scrollAcc + dy) scrollDiv) { s with scrollAcc := s.scrollAcc + dy }
  else s.scrollTick (tdiv dy scrollDiv)

/-- SE_STEP while it is not held (R262, R268). -/
def State.scrollFree (dx dy : Int) (s : State) : State :=
  if moves dx dy then State.emitMove dx dy 0 { s with scrollAcc := 0 } else { s with scrollAcc := 0 }

/-- SE_STEP(btn, dx, dy) (R262). -/
def execSeStep (btn : Buttons) (dx dy : Int) (s : State) : Out :=
  .next ((if s.held btn then s.scrollHeld dy else s.scrollFree dx dy).returning (.flag (moves dx dy)))

end Sys2Proof.Machine
end

