-- ==== Sys2Proof/Machine/Session.lean ====
section
/-! DEFINITION. Session Controller: send_cmd, expect, bring_up and its steps (spec/43_session_controller.md). -/

namespace Sys2Proof.Machine

open Sys2Proof Sys2Proof.Config

/-- send_cmd(b, T) (R203): tx_send first. -/
def execSendCmd (b : Byte) (t : Nat) (s : State) : Out := .next (s.call [.op (.txSend b), .k (.cmdSent t)])

/-- send_cmd after tx_send (R203): on failure `err` is E_TX_TIMEOUT already. -/
def resumeCmdSent (t : Nat) (s : State) : State :=
  if s.ret.isOk then s.call [.op (.mbWait t), .k .hsReply] else s.returning (.reply none)

/-- send_cmd and expect after mb_wait (R203, R204): arrival is all that counts. -/
def resumeHsReply (s : State) : State :=
  match s.ret.byteGot with
  | some v => s.returning (.reply (some v))
  | none => (s.raise .hsTimeout).returning (.reply none)

/-- `expect(T)` (R204). -/
def State.callExpect (t : Nat) (s : State) : State := s.call [.op (.mbWait t), .k .hsReply]

/-- `goto abandon` inside a step: it returns `fail` (R211, R212). -/
def State.stepFails (s : State) : State := s.returning (.status false)

/-- The reset command and its response bytes (R115, R211). -/
def State.callReset (s : State) : State := s.call [.op (.sendCmd s.par.cmdReset s.par.tAck), .k .resetBat]

/-- SS_RESET (R211). -/
def execSsReset (s : State) : Out := .next s.callReset

/-- SS_RESET before the self-test byte (R211). -/
def resumeResetBat (s : State) : State :=
  if s.ret.isOk then (s.call [.k .resetId]).callExpect s.par.tBat else s.stepFails

/-- SS_RESET before the ID byte (R211). -/
def resumeResetId (s : State) : State := if s.ret.isOk then s.callExpect s.par.tId else s.stepFails

/-- SS_RATE (R212). -/
def execSsRate (s : State) : Out :=
  .next (match s.par.sampleRate with
    | none => s.returning (.status true)
    | some r => s.call [.op (.sendCmd s.par.cmdSetRate s.par.tAck), .k (.rateArg r)])

/-- SS_RATE before its argument byte (R212). -/
def resumeRateArg (r : Byte) (s : State) : State := if s.ret.isOk then s.callSendCmd r else s.stepFails

/-- SS_MODE (R213). -/
def execSsMode (s : State) : Out :=
  .next (s.callSendCmd (match s.par.mode with | .remote => s.par.cmdSetRemote | .stream => s.par.cmdSetStream))

/-- Send the ping byte at an index and take its response byte (R71, R214). -/
def State.sendPing (i : Nat) (s : State) : Out :=
  match pingRead s.par i with
  | some b => .next (s.callSendCmd b)
  | none => .fault .pingIndex

/-- SS_PING(i) (R214). -/
def execSsPing (i : Nat) (s : State) : Out := s.sendPing i

/-- SS_ENABLE (R215). -/
def execSsEnable (s : State) : Out :=
  .next (match s.par.mode with
    | .stream => s.callSendCmd s.par.cmdEnable
    | .remote => s.returning (.status true))

/-- bring_up entry (R210). -/
def execBringUp (s : State) : Out :=
  .next ({ s with sess := .resetting, ssStep := .reset }.call [.op .ssReset, .k .bringUpNext])

/-- The Session State a completed bring-up leaves (R210, R220). -/
def sessionOfMode : Mode → Sess
  | .stream => .streaming
  | .remote => .remotePolling

/-- bring_up once the step `ss_step` names has succeeded (R210). -/
def State.bringUpAdvance (s : State) : State :=
  match s.ssStep with
  | .reset => { s with sess := .negotiating, ssStep := .rate }.call [.op .ssRate, .k .bringUpNext]
  | .rate => { s with ssStep := .mode }.call [.op .ssMode, .k .bringUpNext]
  | .mode => { s with ssStep := .ping 0 }.call [.op (.ssPing 0), .k .bringUpNext]
  | .ping i =>
    if i = 16 then { s with ssStep := .enable }.call [.op .ssEnable, .k .bringUpNext]
    else { s with ssStep := .ping (i + 1) }.call [.op (.ssPing (i.val + 1)), .k .bringUpNext]
  | .enable | .done =>
    { s with ssStep := .done, sess := sessionOfMode s.par.mode, tHb := s.now }.returning (.status true)

/-- bring_up after a step: on, or `abandon` (R210). -/
def resumeBringUpNext (s : State) : State :=
  if s.ret.isOk then s.bringUpAdvance else { s with sess := .desync }.returning (.status false)

end Sys2Proof.Machine
end

