-- ==== Sys2Proof/Machine/Translator.lean ====
section
/-! DEFINITION. Report Translator: RT_TRANSLATE, RT_EDGES (spec/45_report_translator.md). -/

namespace Sys2Proof.Machine

open Sys2Proof Sys2Proof.Config

/-- The logical button set of the Report in `rep` (R240, R241). -/
def State.translatedButtons (s : State) : Buttons :=
  logicalButtons s.cfgSwap (primaryL s.par s.rep) (primaryR s.par s.rep) (primaryM s.par s.rep) s.auxMid s.auxScr

/-- RT_TRANSLATE (R241); masks that overlap are refused (93_implementation_defined.md I9). -/
def execRtTranslate (s : State) : Out :=
  if s.par.buttonMasksDisjoint then
    .next (s.returning (.translated s.translatedButtons (deltaX s.rep) (deltaY s.rep)))
  else .refused .overlappingButtonMasks

/-- The event of one button between two shown sets: none when it has not changed (R246). -/
def edgeEvent (b : Btn) (prev cur : Bool) : List Event :=
  if prev = cur then [] else if cur then [.press b] else [.release b]

/-- The events of RT_EDGES in the order L, R, M, X (R246). -/
def edgeEvents (prev cur : Buttons) : List Event :=
  edgeEvent .l prev.l cur.l ++ edgeEvent .r prev.r cur.r ++ edgeEvent .m prev.m cur.m ++ edgeEvent .x prev.x cur.x

/-- RT_EDGES(vis) (R246). -/
def execRtEdges (vis : Buttons) (s : State) : Out :=
  .next ({ s.emit (edgeEvents s.btnPrev vis) with btnPrev := vis }.returning (.flag (decide (vis ≠ s.btnPrev))))

end Sys2Proof.Machine
end

