-- ==== Sys2Proof/Machine/Transmitter.lean ====
section
/-! DEFINITION. Link Transmitter: tx_send, the operations of its phases, bus_stop (spec/42_link_transmitter.md). -/

namespace Sys2Proof.Machine

open Sys2Proof Sys2Proof.Config

/-- An operation enabled in one phase only (R16, R182, R183). -/
def State.inPhase (s : State) (p : TxPhase) (t : State) : Out := if s.txPhase = p then .next t else .refused .notEnabled

/-- The body of TX_START(b) (R181). -/
def State.txStart (b : Byte) (s : State) : State :=
  { ({ (s.setRxIe false).rxReset with txByte := b, txI := 0, txDeadline := s.now + s.par.tTx }.drvClk .rel).drvDat .rel
    with txPhase := .req1 }

/-- TX_START(b): only while no send is in progress (R180, R181). -/
def execTxStart (b : Byte) (s : State) : Out :=
  if s.txPhase = .off then .next (s.txStart b) else .refused .txBusy

/-- TX_REQ1 (R182). -/
def execTxReq1 (s : State) : Out := s.inPhase .req1 { s.drvClk .low with txPhase := .req2 }

/-- TX_REQ2 (R182). -/
def execTxReq2 (s : State) : Out := s.inPhase .req2 { s.drvDat .low with txPhase := .req3 }

/-- TX_REQ3 (R182). -/
def execTxReq3 (s : State) : Out := s.inPhase .req3 { s.drvClk .rel with txPhase := .waitDev }

/-- TX_WAIT_DEV (R184). -/
def execTxWaitDev (s : State) : Out := s.inPhase .waitDev (s.txWait (!s.clk) { s with txPhase := .bitSet })

/-- TX_BIT_SET (R186). -/
def execTxBitSet (s : State) : Out :=
  s.inPhase .bitSet { s.drvDat (driveOf (txBit s.txByte s.txI)) with txPhase := .bitHi }

/-- TX_BIT_HI (R187). -/
def execTxBitHi (s : State) : Out := s.inPhase .bitHi (s.txWait s.clk { s with txPhase := .bitLo })

/-- The success step of TX_BIT_LO (R187). -/
def State.txNextBit (s : State) : State :=
  if s.txI.val < 8 then { s with txI := s.txI + 1, txPhase := .bitSet } else { s with txPhase := .stop }

/-- TX_BIT_LO (R187). -/
def execTxBitLo (s : State) : Out := s.inPhase .bitLo (s.txWait (!s.clk) s.txNextBit)

/-- TX_STOP (R188); with `TX_ACK_WAIT_LOW` the extra wait of R189 and D15 of spec/92_eei_decisions.md comes next
(log 9). -/
def execTxStop (s : State) : Out :=
  s.inPhase .stop { s.drvDat .rel with txPhase := if s.par.txAckWaitLow then .ackLow else .waitAck }

/-- TX_WAIT_ACK (R189): in its own phase the wait for both lines high; in the extra phase the wait for `dat = 0`, the
acknowledge bit (D15 of spec/92_eei_decisions.md, R352, V-TX6; log 9). -/
def execTxWaitAck (s : State) : Out :=
  if s.txPhase = .ackLow then .next (s.txWait (!s.dat) { s with txPhase := .waitAck })
  else s.inPhase .waitAck (s.txWait (s.clk && s.dat) { s with txPhase := .done })

/-- TX_DONE (R190). -/
def execTxDone (s : State) : Out :=
  s.inPhase .done ({ s.setRxIe true with txPhase := .off }.returning (.status true))

/-- TX_ABORT (R191). -/
def execTxAbort (s : State) : Out := .next s.txAbort

/-- tx_send(b) (R180): TX_START, then the operation of each phase until TX_OFF. Sends do not nest. -/
def execTxSend (b : Byte) (s : State) : Out :=
  if s.txPhase = .off then .next (s.call [.op (.txStart b), .txRun]) else .refused .txBusy

/-- The operation a phase runs next (R180); none when no send is in progress. -/
def TxPhase.instr : TxPhase → Option Instr
  | .off => none
  | .req1 => some .txReq1
  | .req2 => some .txReq2
  | .req3 => some .txReq3
  | .waitDev => some .txWaitDev
  | .bitSet => some .txBitSet
  | .bitHi => some .txBitHi
  | .bitLo => some .txBitLo
  | .stop => some .txStop
  | .ackLow => some .txWaitAck
  | .waitAck => some .txWaitAck
  | .done => some .txDone

/-- bus_stop (R192): "Two steps, clock first". -/
def execBusStop (s : State) : Out := .next ((s.drvClk .low).call [.k .busStopDat])

/-- The second step of bus_stop (R192). -/
def resumeBusStopDat (s : State) : State := s.drvDat .rel

end Sys2Proof.Machine
end

