-- ==== Sys2Proof/Machine/Wire.lean ====
section
/-! DEFINITION. The rows of spec/opcode_table.json that are encodings: the serial frame and the response bytes as the device sends them (log 11), the command and table bytes as the block sends them (log 12), the Report and extended packets as the loop context takes them (log 13). -/

namespace Sys2Proof.Machine

open Sys2Proof Sys2Proof.Config

/-! ## Device to block -/

/-- A pending edge is served at once: zero latency (R55). -/
def State.serveEdge (s : State) : State := if s.rxEnabled then s.rxEdge else s

/-- The device clocks out one bit: clock high, data set, clock low; the edge is served (R55, R101, R136). -/
def State.devBit (s : State) (d : Bool) : State :=
  (((s.devClk .rel).devDat (driveOf d)).devClk .low).serveEdge

/-- The device clocks out bits in time order and then releases both lines. -/
def State.devBits (bits : List Bool) (s : State) : State :=
  ((bits.foldl State.devBit s).devClk .rel).devDat .rel

/-- FRAME(data, p) (R101, R170, R173). -/
def execFrame (data : Byte) (p : Bool) (s : State) : Out := .next (s.devBits (frameBits data p))

/-- RSP_ACK (R117). -/
def execRspAck (s : State) : Out := .next (s.devBits (frameOf rspAckByte))

/-- RSP_SELFTEST_OK (R117). -/
def execRspSelftestOk (s : State) : Out := .next (s.devBits (frameOf rspSelftestOkByte))

/-- RSP_DEVICE_ID (R117). -/
def execRspDeviceId (s : State) : Out := .next (s.devBits (frameOf rspDeviceIdByte))

/-! ## Block to device -/

/-- CMD_RESET: the byte, then the two bytes after its acknowledgment (R115, R126, R211). -/
def execCmdReset (s : State) : Out := .next s.callReset

/-- CMD_ENABLE (R115). -/
def execCmdEnable (s : State) : Out := .next (s.callSendCmd s.par.cmdEnable)

/-- CMD_DISABLE (R115). -/
def execCmdDisable (s : State) : Out := .next (s.callSendCmd s.par.cmdDisable)

/-- CMD_SET_RATE: the command, then its argument where a rate is configured (R115, R116, R212). DESIGN CHOICE
(log 12): with `SAMPLE_RATE = none`, where R115 has an argument to send and R212 sends nothing, the row sends the
command byte alone. -/
def execCmdSetRate (s : State) : Out :=
  .next (match s.par.sampleRate with
    | none => s.callSendCmd s.par.cmdSetRate
    | some r => s.call [.op (.sendCmd s.par.cmdSetRate s.par.tAck), .k (.rateArg r)])

/-- CMD_SET_REMOTE (R115). -/
def execCmdSetRemote (s : State) : Out := .next (s.callSendCmd s.par.cmdSetRemote)

/-- CMD_SET_STREAM (R115). -/
def execCmdSetStream (s : State) : Out := .next (s.callSendCmd s.par.cmdSetStream)

/-- CMD_READ_DATA: the request, then the three bytes of one Report (R115, R126, R285). -/
def execCmdReadData (s : State) : Out := .next s.callReadData

/-- CMD_STATUS: the request, then the `N_STAT` bytes after its acknowledgment (R115, R126, R284). -/
def execCmdStatus (s : State) : Out := .next s.callStatus

/-- PING_00 (R120, R214). -/
def execPing00 (s : State) : Out := s.sendPing 0

/-- PING_01 (R120, R214). -/
def execPing01 (s : State) : Out := s.sendPing 1

/-- PING_02 (R120, R214). -/
def execPing02 (s : State) : Out := s.sendPing 2

/-- PING_03 (R120, R214). -/
def execPing03 (s : State) : Out := s.sendPing 3

/-- PING_04 (R120, R214). -/
def execPing04 (s : State) : Out := s.sendPing 4

/-- PING_05 (R120, R214). -/
def execPing05 (s : State) : Out := s.sendPing 5

/-- PING_06 (R120, R214). -/
def execPing06 (s : State) : Out := s.sendPing 6

/-- PING_07 (R120, R214). -/
def execPing07 (s : State) : Out := s.sendPing 7

/-- PING_08 (R120, R214). -/
def execPing08 (s : State) : Out := s.sendPing 8

/-- PING_09 (R120, R214). -/
def execPing09 (s : State) : Out := s.sendPing 9

/-- PING_10 (R120, R214). -/
def execPing10 (s : State) : Out := s.sendPing 10

/-- PING_11 (R120, R214). -/
def execPing11 (s : State) : Out := s.sendPing 11

/-- PING_12 (R120, R214). -/
def execPing12 (s : State) : Out := s.sendPing 12

/-- PING_13 (R120, R214). -/
def execPing13 (s : State) : Out := s.sendPing 13

/-- PING_14 (R120, R214). -/
def execPing14 (s : State) : Out := s.sendPing 14

/-- PING_15 (R120, R214). -/
def execPing15 (s : State) : Out := s.sendPing 15

/-- PING_16 (R120, R214). -/
def execPing16 (s : State) : Out := s.sendPing 16

/-! ## The loop context's Report -/

/-- The three bytes stand in `rep`, as get_report leaves them (R44, R285). -/
def State.withReport (r : Report) (s : State) : State := { s with rep := r, repN := 3 }

/-- REPORT: the Report obtained is processed (R105, R287). -/
def execReport (r : Report) (s : State) : Out :=
  .next ((s.withReport r).call [.op .xdDecode, .k .prDecoded])

/-- EXT_PACKET: the Report obtained goes through XD_DECODE (R110, R231, R232). -/
def execExtPacket (r : Report) (s : State) : Out := .next (s.withReport r).xdDecode

/-- EXT_AUXBTN: the Report obtained goes through XD_DECODE (R111, R112, R231). -/
def execExtAuxbtn (r : Report) (s : State) : Out := .next (s.withReport r).xdDecode

end Sys2Proof.Machine
end

