-- ==== Sys2Proof/Machine/Dispatch.lean ====
section
/-! DEFINITION. The meaning of every operation: one arm per constructor of Instr. -/

namespace Sys2Proof.Machine

open Sys2Proof

def exec (i : Instr) (s : State) : Host.Outcome State Fault Refusal :=
  match i with
  | .mbPush v => Sys2Proof.Machine.execMbPush v s
  | .mbPull => Sys2Proof.Machine.execMbPull s
  | .mbEmpty => Sys2Proof.Machine.execMbEmpty s
  | .mbReset => Sys2Proof.Machine.execMbReset s
  | .rxEdge => Sys2Proof.Machine.execRxEdge s
  | .rxReset => Sys2Proof.Machine.execRxReset s
  | .txStart b => Sys2Proof.Machine.execTxStart b s
  | .txReq1 => Sys2Proof.Machine.execTxReq1 s
  | .txReq2 => Sys2Proof.Machine.execTxReq2 s
  | .txReq3 => Sys2Proof.Machine.execTxReq3 s
  | .txWaitDev => Sys2Proof.Machine.execTxWaitDev s
  | .txBitSet => Sys2Proof.Machine.execTxBitSet s
  | .txBitHi => Sys2Proof.Machine.execTxBitHi s
  | .txBitLo => Sys2Proof.Machine.execTxBitLo s
  | .txStop => Sys2Proof.Machine.execTxStop s
  | .txWaitAck => Sys2Proof.Machine.execTxWaitAck s
  | .txDone => Sys2Proof.Machine.execTxDone s
  | .txAbort => Sys2Proof.Machine.execTxAbort s
  | .xdDecode => Sys2Proof.Machine.execXdDecode s
  | .rtTranslate => Sys2Proof.Machine.execRtTranslate s
  | .rtEdges vis => Sys2Proof.Machine.execRtEdges vis s
  | .seStep btn dx dy => Sys2Proof.Machine.execSeStep btn dx dy s
  | .itRealEvent activity => Sys2Proof.Machine.execItRealEvent activity s
  | .itStep => Sys2Proof.Machine.execItStep s
  | .mlIterBegin => Sys2Proof.Machine.execMlIterBegin s
  | .mlRecover => Sys2Proof.Machine.execMlRecover s
  | .mlHeartbeat => Sys2Proof.Machine.execMlHeartbeat s
  | .mlCheck => Sys2Proof.Machine.execMlCheck s
  | .mbWait t => Sys2Proof.Machine.execMbWait t s
  | .txSend b => Sys2Proof.Machine.execTxSend b s
  | .sendCmd b t => Sys2Proof.Machine.execSendCmd b t s
  | .bringUp => Sys2Proof.Machine.execBringUp s
  | .ssReset => Sys2Proof.Machine.execSsReset s
  | .ssRate => Sys2Proof.Machine.execSsRate s
  | .ssMode => Sys2Proof.Machine.execSsMode s
  | .ssPing k => Sys2Proof.Machine.execSsPing k s
  | .ssEnable => Sys2Proof.Machine.execSsEnable s
  | .getReport => Sys2Proof.Machine.execGetReport s
  | .processReport => Sys2Proof.Machine.execProcessReport s
  | .loopIteration => Sys2Proof.Machine.execLoopIteration s
  | .busStop => Sys2Proof.Machine.execBusStop s
  | .reset => Sys2Proof.Machine.execReset s
  | .frame data p => Sys2Proof.Machine.execFrame data p s
  | .cmdReset => Sys2Proof.Machine.execCmdReset s
  | .cmdEnable => Sys2Proof.Machine.execCmdEnable s
  | .cmdDisable => Sys2Proof.Machine.execCmdDisable s
  | .cmdSetRate => Sys2Proof.Machine.execCmdSetRate s
  | .cmdSetRemote => Sys2Proof.Machine.execCmdSetRemote s
  | .cmdSetStream => Sys2Proof.Machine.execCmdSetStream s
  | .cmdReadData => Sys2Proof.Machine.execCmdReadData s
  | .cmdStatus => Sys2Proof.Machine.execCmdStatus s
  | .rspAck => Sys2Proof.Machine.execRspAck s
  | .rspSelftestOk => Sys2Proof.Machine.execRspSelftestOk s
  | .rspDeviceId => Sys2Proof.Machine.execRspDeviceId s
  | .report r => Sys2Proof.Machine.execReport r s
  | .extPacket r => Sys2Proof.Machine.execExtPacket r s
  | .extAuxbtn r => Sys2Proof.Machine.execExtAuxbtn r s
  | .ping00 => Sys2Proof.Machine.execPing00 s
  | .ping01 => Sys2Proof.Machine.execPing01 s
  | .ping02 => Sys2Proof.Machine.execPing02 s
  | .ping03 => Sys2Proof.Machine.execPing03 s
  | .ping04 => Sys2Proof.Machine.execPing04 s
  | .ping05 => Sys2Proof.Machine.execPing05 s
  | .ping06 => Sys2Proof.Machine.execPing06 s
  | .ping07 => Sys2Proof.Machine.execPing07 s
  | .ping08 => Sys2Proof.Machine.execPing08 s
  | .ping09 => Sys2Proof.Machine.execPing09 s
  | .ping10 => Sys2Proof.Machine.execPing10 s
  | .ping11 => Sys2Proof.Machine.execPing11 s
  | .ping12 => Sys2Proof.Machine.execPing12 s
  | .ping13 => Sys2Proof.Machine.execPing13 s
  | .ping14 => Sys2Proof.Machine.execPing14 s
  | .ping15 => Sys2Proof.Machine.execPing15 s
  | .ping16 => Sys2Proof.Machine.execPing16 s

end Sys2Proof.Machine
end

