-- ==== Sys2Proof/Machine/Loop.lean ====
section
/-! DEFINITION. How a procedure of the loop context goes on at each of its return points (log 7). -/

namespace Sys2Proof.Machine

open Sys2Proof Sys2Proof.Config

/-- Go on at a return point that has been taken off the control stack. -/
def State.resume (c : Cont) (s : State) : State :=
  match c with
  | .mbPoll deadline => resumeMbPoll deadline s
  | .busStopDat => resumeBusStopDat s
  | .cmdSent t => resumeCmdSent t s
  | .hsReply => resumeHsReply s
  | .resetBat => resumeResetBat s
  | .resetId => resumeResetId s
  | .rateArg r => resumeRateArg r s
  | .bringUpNext => resumeBringUpNext s
  | .hbRequested => resumeHbRequested s
  | .hbByte left => resumeHbByte left s
  | .repRequested => resumeRepRequested s
  | .repByte polled => resumeRepByte polled s
  | .prDecoded => resumePrDecoded s
  | .prChecked => resumePrChecked s
  | .prTranslated => resumePrTranslated s
  | .prScrolled btn => resumePrScrolled btn s
  | .prEdged moved => resumePrEdged moved s
  | .liBegun => resumeLiBegun s
  | .liRecovered => resumeLiRecovered s
  | .liBeat => resumeLiBeat s
  | .liGot => resumeLiGot s

end Sys2Proof.Machine
end

