-- ==== Sys2Proof/Machine/Schedule.lean ====
section
/-! DEFINITION. Who moves and what a move does: the operation slot (log 4), the order of the agents' moves (log 3), the loop context's next step (log 7), the interrupt context's, and the environment's moves. -/

namespace Sys2Proof.Machine

open Sys2Proof Sys2Proof.Config

/-- The operation in the slot: the slot is emptied, and the operation its bytes decode to is run (log 4). -/
def State.runSlot (bytes : List Byte) (s : State) : Out :=
  match decode bytes with
  | .ok i => exec i { s with slot := none }
  | .error _ => .refused .undecodable

/-- The next step of the loop context: the top of the control stack, or `loop_iteration` again when the
stack is empty (R280, R341). -/
def State.loopStep (s : State) : Out :=
  match s.ctl with
  | [] => exec .loopIteration s
  | .op i :: rest => exec i { s with ctl := rest }
  | .txRun :: rest =>
    match s.txPhase.instr with
    | some i => exec i s
    | none => .next { s with ctl := rest }
  | .k c :: rest => .next (State.resume c { s with ctl := rest })

/-- The next step of the interrupt context: RX_EDGE when it is enabled, else nothing (R160). -/
def State.isrStep (s : State) : Out := if s.rxEnabled then exec .rxEdge s else .next s

/-- One move of one agent (R20, R22, R50, R51). -/
def State.makeMove (m : Move) (s : State) : Out :=
  match m with
  | .isr => s.isrStep
  | .loop => s.loopStep
  | .devClk x => .next (s.devClk x)
  | .devDat x => .next (s.devDat x)
  | .hostSwap v => .next { s with inSwap := v }
  | .hostJiggle v => .next { s with inJiggle := v }
  | .hostScroll v => .next { s with inScroll := v }
  | .hostSuspended v => .next { s with hostSuspended := v }
  | .clock ms => .next { s with now := s.now + ms }

/-- The move that comes next: the first that `sched` holds, else a free one (log 3). -/
def State.nextMove (s : State) : Move := s.sched.head?.getD (freeMove s.nFree)

/-- The state once that move has been taken from where it stood (log 3). -/
def State.moveTaken (s : State) : State :=
  { s with sched := s.sched.tail, nFree := if s.sched.isEmpty then s.nFree + 1 else s.nFree }

/-- One step: the operation in the slot if there is one, else the next move. -/
def State.stepOnce (s : State) : Out :=
  match s.slot with
  | some bytes => s.runSlot bytes
  | none => s.moveTaken.makeMove s.nextMove

/-- The sequencing state in which an operation is the one that comes next (R58, R160, R181 to R190): the
phase of a transmitter operation, an edge to serve for RX_EDGE (log 10). -/
def State.enable (i : Instr) (s : State) : State :=
  match i with
  | .rxEdge => { s with rxIe := true, rxPending := true }
  | .txStart _ | .txSend _ => { s with txPhase := .off }
  | .txReq1 => { s with txPhase := .req1 }
  | .txReq2 => { s with txPhase := .req2 }
  | .txReq3 => { s with txPhase := .req3 }
  | .txWaitDev => { s with txPhase := .waitDev }
  | .txBitSet => { s with txPhase := .bitSet }
  | .txBitHi => { s with txPhase := .bitHi }
  | .txBitLo => { s with txPhase := .bitLo }
  | .txStop => { s with txPhase := .stop }
  | .txWaitAck => { s with txPhase := .waitAck }
  | .txDone => { s with txPhase := .done }
  | _ => s

/-- A word of spec/opcode_table.json placed in the slot, its operation enabled (log 4, log 10). -/
def State.placeWord (nbits w : Nat) (s : State) : State :=
  let t := { s with slot := some (tableBytes nbits w) }
  match decodeTableWord nbits w with
  | some i => t.enable i
  | none => t

end Sys2Proof.Machine
end

