-- ==== Sys2Proof/Machine/Step.lean ====
section
/-! DEFINITION. One step of the machine, and the placing of an operation where the next step takes it. -/

namespace Sys2Proof.Machine

open Sys2Proof

/-- One step (Machine/Schedule.lean). -/
def step (s : State) : Host.Outcome State Fault Refusal := s.stepOnce

/-- The state whose next step runs the operation of a word of spec/opcode_table.json (log 4). -/
def State.withFetchWord (s : State) (nbits w : Nat) : State := s.placeWord nbits w

end Sys2Proof.Machine
end

