-- ==== Sys2Proof/Machine/Ring.lean ====
section
/-! DEFINITION. The reference representation of the mailbox (R32, R70): sixteen slots in the address space MB, the index of the oldest byte, and a count. "Indices are not architectural state" (R31), so the machine's state holds the sequence; this file is what the spec says any such machine may be built as (log 16). -/

namespace Sys2Proof.Machine

open Sys2Proof Sys2Proof.Config

/-- Bytes by address, in one canonical form: an address that is not listed holds no value. -/
abbrev Memory := List Host.Cell

/-- The canonical form: addresses strictly rising, so that equal memories are equal lists. -/
abbrev Memory.wf (m : Memory) : Prop := m.Pairwise fun x y => x.1 < y.1

/-- `MemRead(space, a, 1)` (R15): no value where nothing has been written. -/
def memRead : Memory → Nat → Option Byte
  | [], _ => none
  | (b, w) :: m, a => if a = b then some w else memRead m a

/-- `MemWrite(space, a, 1, v)` (R15). -/
def memWrite : Memory → Nat → Byte → Memory
  | [], a, v => [(a, v)]
  | (b, w) :: m, a, v =>
    if a < b then (a, v) :: (b, w) :: m else if a = b then (a, v) :: m else (b, w) :: memWrite m a v

/-- `mb_slot`, `mb_tail`, `mb_cnt` (R32). -/
structure Ring where
  slots : Memory
  tail : Nat
  cnt : Nat
deriving DecidableEq, Repr

/-- The slot of the k-th oldest byte, `(mb_tail + k) mod 16` (R32). -/
def Ring.index (r : Ring) (k : Nat) : Nat := (r.tail + k) % mbCap

/-- The sequence the ring stands for (R32). -/
def Ring.seq (r : Ring) : List Byte := (List.range r.cnt).filterMap fun k => memRead r.slots (r.index k)

/-- `MB_PUSH(v)` in the reference representation (R141). -/
def Ring.push (r : Ring) (v : Byte) : Ring :=
  if r.cnt < mbCap then { r with slots := memWrite r.slots (r.index r.cnt) v, cnt := r.cnt + 1 } else r

/-- What `MB_PULL()` returns in the reference representation (R142). -/
def Ring.pulled (r : Ring) : Option Byte := if r.cnt = 0 then none else memRead r.slots r.tail

/-- The ring after `MB_PULL()` (R142). -/
def Ring.pull (r : Ring) : Ring := if r.cnt = 0 then r else { r with tail := (r.tail + 1) % mbCap, cnt := r.cnt - 1 }

/-- `MB_RESET()` in the reference representation: the slots keep their contents (R144). -/
def Ring.reset (r : Ring) : Ring := { r with tail := 0, cnt := 0 }

/-- After reset: no slot has been written (R32). -/
def Ring.initial : Ring := ⟨[], 0, 0⟩

/-- The ring's own invariant: canonical slots, indices in range (R32), every byte it holds has been written. -/
def Ring.wf (r : Ring) : Prop :=
  Memory.wf r.slots ∧ r.tail < mbCap ∧ r.cnt ≤ mbCap ∧ ∀ k < r.cnt, (memRead r.slots (r.index k)).isSome

end Sys2Proof.Machine
end

