-- ==== Sys2Proof/Safety.lean ====
section
/-! DEFINITION. What the claims call safe: the invariant every step keeps, the invariant of the block's own runs, and the terms the claims are stated in. -/

namespace Sys2Proof.Machine

open Sys2Proof Sys2Proof.Config

/-- The receiver's registers agree: the parity flag is that of the bits taken so far (R164), the bits not yet
taken are 0, and at rest the registers hold their idle values (R166). -/
structure RxInv (s : State) : Prop where
  parity : s.rxPar = oddpar s.rxAcc
  empty : s.rxPos.val ≤ 8 → s.rxAcc.toNat % 2 ^ (9 - s.rxPos.val) = 0
  idle : s.rxPos = 0 → s.rxAcc = 0x00

/-- What every step keeps, whatever operation stands in the slot. -/
structure Inv (s : State) : Prop where
  /-- R147 (a). -/
  mailbox : s.mb.length ≤ mbCap
  rx : RxInv s
  /-- R55: an edge is pending only while the interrupt is enabled. -/
  pending : s.rxPending = true → s.rxIe = true
  /-- R54: the edge detector's level is the line's. -/
  level : s.clkPrev = s.clk
  /-- R84, R194: while a send is in progress the interrupt is off and the receiver is at rest. -/
  exclusion : s.txPhase ≠ .off → s.rxIe = false ∧ s.rxPos = 0
  /-- R264. -/
  scroll : -7 ≤ s.scrollAcc ∧ s.scrollAcc ≤ 7
  /-- R275, R330: the counters saturate. -/
  nudges : s.jigN ≤ s.par.jigMax
  beats : s.hbN ≤ s.par.hbMax
  /-- R277: a recorded time was a value of `now`. -/
  times : s.tLast ≤ s.now ∧ s.tHb ≤ s.now
  /-- R300: `err` is 0 or one of the seven codes. -/
  codes : s.err.toNat ≤ 7

/-- The operations the loop context's own procedures call (R135, R180 to R287). -/
def Instr.ofLoop : Instr → Bool
  | .mbWait _ | .txSend _ | .sendCmd _ _ => true
  | .ssReset | .ssRate | .ssMode | .ssEnable | .bringUp => true
  | .ssPing i => decide (i < pingLen)
  | .mlIterBegin | .mlHeartbeat | .mlCheck | .getReport | .processReport => true
  | .xdDecode | .rtTranslate | .seStep _ _ _ | .rtEdges _ | .itRealEvent _ | .itStep => true
  | .txStart _ | .mlRecover => false
  | .mbPush _ | .mbPull | .mbEmpty | .mbReset | .rxEdge | .rxReset | .loopIteration | .busStop | .reset => false
  | .txReq1 | .txReq2 | .txReq3 | .txWaitDev | .txBitSet | .txBitHi | .txBitLo | .txStop => false
  | .txWaitAck | .txDone | .txAbort => false
  | .frame _ _ | .rspAck | .rspSelftestOk | .rspDeviceId | .report _ | .extPacket _ | .extAuxbtn _ => false
  | .cmdReset | .cmdEnable | .cmdDisable | .cmdSetRate => false
  | .cmdSetRemote | .cmdSetStream | .cmdReadData | .cmdStatus => false
  | .ping00 | .ping01 | .ping02 | .ping03 | .ping04 | .ping05 | .ping06 | .ping07 | .ping08 => false
  | .ping09 | .ping10 | .ping11 | .ping12 | .ping13 | .ping14 | .ping15 | .ping16 => false

/-- What the loop context's own procedures put on the control stack: TX_START only with the rest of its send
after it (R180), ML_RECOVER only with the bring-up after it (R280), return points of procedures it calls. -/
def ctlOk : List Task → Bool
  | [] => true
  | .op (.txStart _) :: .txRun :: rest => ctlOk rest
  | .op .mlRecover :: .op .bringUp :: rest => ctlOk rest
  | .op i :: rest => Instr.ofLoop i && ctlOk rest
  | .txRun :: rest => ctlOk rest
  | .k .busStopDat :: _ => false
  | .k _ :: rest => ctlOk rest

/-- The block's own drives in each phase of a send (R25, R181 to R190). -/
def phaseDrives (p : TxPhase) (hClk hDat : Drive) : Bool :=
  match p with
  | .off => true
  | .req1 => hClk == .rel && hDat == .rel
  | .req2 => hClk == .low && hDat == .rel
  | .req3 => hClk == .low && hDat == .low
  | .waitDev => hClk == .rel && hDat == .low
  | .bitSet | .bitHi | .bitLo | .stop => hClk == .rel
  | .ackLow | .waitAck | .done => hClk == .rel && hDat == .rel

/-- What the block's own runs keep: no operation placed from outside, the loop context inside its own
procedures, its drives those of its phase. -/
structure RunInv (s : State) : Prop where
  inv : Inv s
  params : s.par.wf = true
  noSlot : s.slot = none
  ctl : ctlOk s.ctl = true
  /-- A send in progress is what the loop context is doing. -/
  sending : s.txPhase ≠ .off → s.ctl.head? = some .txRun
  drives : phaseDrives s.txPhase s.hClk s.hDat = true
  /-- D36 of spec/92_eei_decisions.md, R192: while the interrupt is enabled the block drives neither line. -/
  listening : s.rxIe = true → s.hClk = .rel ∧ s.hDat = .rel

/-- The return points that act on `ok` or `fail`. -/
def Cont.awaitsStatus : Cont → Bool
  | .cmdSent _ | .resetBat | .resetId | .rateArg _ | .bringUpNext | .hbRequested | .repRequested => true
  | .mbPoll _ | .busStopDat | .hsReply | .hbByte _ | .repByte _ => false
  | .prDecoded | .prChecked | .prTranslated | .prScrolled _ | .prEdged _ => false
  | .liBegun | .liRecovered | .liBeat | .liGot => false

/-- The operations that end in `ok` or `fail` (R180, R203, R210, R284). -/
def Instr.givesStatus : Instr → Bool
  | .txSend _ | .sendCmd _ _ | .bringUp | .ssReset | .ssRate | .ssMode | .ssPing _ | .ssEnable | .mlHeartbeat => true
  | .mbPush _ | .mbPull | .mbEmpty | .mbReset | .rxEdge | .rxReset | .txStart _ | .txReq1 | .txReq2 | .txReq3 => false
  | .txWaitDev | .txBitSet | .txBitHi | .txBitLo | .txStop | .txWaitAck | .txDone | .txAbort => false
  | .xdDecode | .rtTranslate | .rtEdges _ | .seStep _ _ _ | .itRealEvent _ | .itStep => false
  | .mlIterBegin | .mlRecover | .mlCheck | .mbWait _ | .getReport | .processReport | .loopIteration => false
  | .busStop | .reset | .frame _ _ | .rspAck | .rspSelftestOk | .rspDeviceId => false
  | .report _ | .extPacket _ | .extAuxbtn _ => false
  | .cmdReset | .cmdEnable | .cmdDisable | .cmdSetRate => false
  | .cmdSetRemote | .cmdSetStream | .cmdReadData | .cmdStatus => false
  | .ping00 | .ping01 | .ping02 | .ping03 | .ping04 | .ping05 | .ping06 | .ping07 | .ping08 => false
  | .ping09 | .ping10 | .ping11 | .ping12 | .ping13 | .ping14 | .ping15 | .ping16 => false

/-- Whether an entry is a TX_START (R181). -/
def Task.startsSend : Task → Bool
  | .op i => (match i with | .txStart _ => true | _ => false)
  | .txRun => false
  | .k _ => false

/-- Whether what an entry of the control stack leaves in `ret` is the `ok` or `fail` of a sending procedure. -/
def Task.givesStatus : Task → Bool
  | .op i => Instr.givesStatus i
  | .txRun => true
  | .k (.cmdSent _) | .k .hsReply | .k .resetBat | .k .resetId | .k (.rateArg _) | .k .bringUpNext => true
  | .k .hbRequested | .k (.hbByte _) => true
  | .k (.mbPoll _) | .k .busStopDat | .k .repRequested | .k (.repByte _) => false
  | .k .prDecoded | .k .prChecked | .k .prTranslated | .k (.prScrolled _) | .k (.prEdged _) => false
  | .k .liBegun | .k .liRecovered | .k .liBeat | .k .liGot => false

/-- Whether an entry leaves what the next entry down acts on: a send runs only after its TX_START, and a
return point that acts on `ok` or `fail` stands under a procedure that returns one (R180, R203, R210). -/
def Task.feeds (x : Task) : Task → Bool
  | .op _ => true
  | .txRun => x.startsSend
  | .k c => !c.awaitsStatus || x.givesStatus

/-- Every entry of the control stack feeds the next. -/
def ctlFed : List Task → Bool
  | [] => true
  | x :: rest => (match rest with | [] => true | y :: _ => x.feeds y) && ctlFed rest

/-- A failure about to be acted on has raised a link error (R203, R204, R210). -/
def failureRaised (s : State) : Prop :=
  (∀ c rest, s.ctl = .k c :: rest → c.awaitsStatus = true → s.ret.isOk = false → s.err ≠ 0) ∧
  (∀ rest, s.ctl = .txRun :: rest → s.txPhase = .off → s.ret.isOk = false → s.err ≠ 0)

/-- R220: a desynchronised session has its error recorded, but between ML_RECOVER's clear and the bring-up
that follows it. -/
structure DesyncInv (s : State) : Prop where
  run : RunInv s
  fed : ctlFed s.ctl = true
  raised : failureRaised s
  desync : s.sess = .desync → s.err ≠ 0 ∨ s.ctl.head? = some (.op .bringUp)

/-- Run a list of moves, one step each, in order: the free order of the agents, fixed for these moves. -/
def runMoves : List Move → State → Out
  | [], s => .next s
  | m :: ms, s =>
    match step { s with sched := m :: s.sched } with
    | .next t => runMoves ms t
    | .fault r => .fault r
    | .refused r => .refused r

/-- The moves of a device that answers one bit of a send at once: the loop context sets the bit, the device
raises the clock, the loop context sees it, the device lowers the clock, the loop context sees it (R187). -/
def bitMoves : List Move := [.loop, .devClk .rel, .loop, .devClk .low, .loop]

/-- The moves of a send against such a device up to its last bit: TX_START and the request, the device's first
fall, nine bits (R180, R197). -/
def sendBitsMoves : List Move :=
  [.loop, .loop, .loop, .loop, .devClk .low, .loop] ++ (List.replicate 9 bitMoves).flatten

/-- A whole send against a device that gives no acknowledge pulse: the stop bit, the release of both lines,
TX_DONE (R197). -/
def sendMoves : List Move := sendBitsMoves ++ [.loop, .devClk .rel, .devDat .rel, .loop, .loop]

/-- A whole send against a device that gives one (R352), polled at each of its points: the stop bit, the clock's
rise, data low, clock low, the release of both lines, TX_DONE. -/
def sendAckMoves : List Move :=
  sendBitsMoves ++ [.loop, .devClk .rel, .loop, .devDat .low, .loop, .devClk .low, .loop, .devClk .rel, .devDat .rel,
    .loop, .loop]

/-- The run of the hazard of R352: a poll between the clock's rise and the acknowledge pulse ends the wait, TX_DONE
enables the interrupt, and the pulse's falling edge is served. -/
def sendHazardMoves : List Move :=
  sendBitsMoves ++ [.loop, .devClk .rel, .loop, .loop, .devDat .low, .devClk .low, .isr]

/-- Run operations one after another, stopping at the first that gives no next state. -/
def execAll : List Instr → State → Out
  | [], s => .next s
  | i :: is, s =>
    match exec i s with
    | .next t => execAll is t
    | .fault r => .fault r
    | .refused r => .refused r

/-- The levels of the data line at the device's rising clock edges, while moves are made from a state (R193). -/
def levelsAtRises : List Move → State → List Bool
  | [], _ => []
  | m :: ms, s =>
    match s.makeMove m with
    | .next t => (if m = .devClk .rel then [t.dat] else []) ++ levelsAtRises ms t
    | .fault _ => []
    | .refused _ => []

/-- What a procedure asks of the device: a byte sent whose response byte is taken within a bound (R203), or one
more byte taken within a bound (R146). -/
inductive LinkCall where
  | send (b : Byte) (t : Nat)
  | take (t : Nat)
deriving DecidableEq, Repr

/-- The loop context's own steps until its control stack is empty, against a device that answers every byte
sent and every wait at once with `v`: what it asks of the device in order, and the state in which it ends. -/
def linkCalls (v : Byte) : Nat → State → List LinkCall × State
  | 0, s => ([], s)
  | n + 1, s =>
    match s.ctl with
    | [] => ([], s)
    | .op (.sendCmd b t) :: rest =>
      let r := linkCalls v n { s with ctl := rest, ret := .reply (some v) }
      (.send b t :: r.1, r.2)
    | .op (.mbWait t) :: rest =>
      let r := linkCalls v n { s with ctl := rest, ret := .byte (some v) }
      (.take t :: r.1, r.2)
    | _ =>
      match s.loopStep with
      | .next t => linkCalls v n t
      | .fault _ => ([], s)
      | .refused _ => ([], s)

end Sys2Proof.Machine
end

