-- ==== Sys2Proof/Certificates/Slice0/Obligations.lean ====
section
/-! DEFINITION. The statements for the provers, in the order of OBLIGATIONS.json. A next state is written as the old state with the fields the rule names changed, so that each such equation is the result, the completion and the frame at once. -/

open Sys2Proof Sys2Proof.Machine Sys2Proof.Config

/-! ## Encoding and the step -/

/-- Decoding an encoded well-formed operation gives it back, for every operation and every operand its word
admits. The operation words are the model's (log 6); their fields are those of R101, R105, R110, R115, R117,
R120, R130 and R135. -/
def Obligations.DecodeEncode : Prop := ∀ i : Instr, i.wf = true → decode (encode i) = .ok i

/-- Words of spec/opcode_table.json written out from the encodings of the spec decode to the operation they
stand for; the words are read as log 5 says. -/
def Obligations.DecodeTableWords : Prop :=
  decodeTableWord 8 0b00000100 = some .rxEdge ∧
  decodeTableWord 8 0b00010010 = some .xdDecode ∧
  decodeTableWord 8 0b01001011 = some .loopIteration ∧
  decodeTableWord 16 0b00010111101 = some (.frame 0xF4 false) ∧
  decodeTableWord 8 0b11101011 = some .cmdReadData ∧
  decodeTableWord 8 0b10101010 = some .rspSelftestOk ∧
  decodeTableWord 24 0x0905FB = some (.report ⟨0x09, 0x05, 0xFB⟩) ∧
  decodeTableWord 24 0xC8D210 = some (.extAuxbtn ⟨0xC8, 0xD2, 0x10⟩) ∧
  decodeTableWord 24 0x480200 = some (.extPacket ⟨0x48, 0x02, 0x00⟩) ∧
  decodeTableWord 8 0b11100110 = some .ping08

/-- A step whose operation slot holds bytes runs the operation they decode to, on the state with the slot
emptied, and a word of the table placed there by `withFetchWord` is what the next step decodes and runs (the
model's carrier of an operation: log 4, log 5, log 10). -/
def Obligations.StepRunsSlot : Prop :=
  (∀ (s : State) (bs : List Byte) (i : Instr),
    s.slot = some bs → decode bs = .ok i → step s = exec i { s with slot := none }) ∧
  (∀ (s : State) (nbits w : Nat) (i : Instr), decodeTableWord nbits w = some i →
    step (s.withFetchWord nbits w) = exec i { s.withFetchWord nbits w with slot := none })

/-- With no operation in the slot and the loop context's move next, a step runs the operation on top of the
control stack; `loop_iteration` again when the stack is empty (R280); the operation of its phase while a send
is in progress (R180). Where the loop context is inside its procedures is the model's control stack (log 7). -/
def Obligations.StepRunsLoop : Prop :=
  ∀ (s : State) (ms : List Move) (rest : List Task), s.slot = none → s.sched = .loop :: ms →
    (s.ctl = [] → step s = exec .loopIteration { s with sched := ms }) ∧
    (∀ i, s.ctl = .op i :: rest → step s = exec i { s with sched := ms, ctl := rest }) ∧
    (∀ i, s.ctl = .txRun :: rest → s.txPhase.instr = some i → step s = exec i { s with sched := ms }) ∧
    (s.ctl = .txRun :: rest → s.txPhase = .off → step s = .next { s with sched := ms, ctl := rest }) ∧
    (∀ c, s.ctl = .k c :: rest → step s = .next (State.resume c { s with sched := ms, ctl := rest }))

/-- With no operation in the slot, the other agents' moves: the interrupt context runs RX_EDGE when it is
enabled and else nothing (R160); the device changes one drive and a clock change passes the edge detector
(R22, R54, R55); the host changes one input (R51); the clock adds time (R50). -/
def Obligations.StepRunsAgents : Prop :=
  ∀ (s : State) (ms : List Move), s.slot = none →
    (s.sched = .isr :: ms → s.rxIe = true → s.rxPending = true → step s = exec .rxEdge { s with sched := ms }) ∧
    (s.sched = .isr :: ms → s.rxIe = false ∨ s.rxPending = false → step s = .next { s with sched := ms }) ∧
    (∀ x, s.sched = .devClk x :: ms → step s = .next { s with
      sched := ms, dClk := x, clkPrev := wiredAnd s.hClk x,
      rxPending := s.rxPending || (s.clkPrev && !wiredAnd s.hClk x && s.rxIe) }) ∧
    (∀ x, s.sched = .devDat x :: ms → step s = .next { s with sched := ms, dDat := x }) ∧
    (∀ v, s.sched = .hostSwap v :: ms → step s = .next { s with sched := ms, inSwap := v }) ∧
    (∀ v, s.sched = .hostJiggle v :: ms → step s = .next { s with sched := ms, inJiggle := v }) ∧
    (∀ v, s.sched = .hostScroll v :: ms → step s = .next { s with sched := ms, inScroll := v }) ∧
    (∀ v, s.sched = .hostSuspended v :: ms → step s = .next { s with sched := ms, hostSuspended := v }) ∧
    (∀ d, s.sched = .clock d :: ms → step s = .next { s with sched := ms, now := s.now + d })

/-! ## Invariants and whole-machine rules -/

/-- Every step keeps the invariant: mailbox bound (R147), the receiver's registers in agreement (R164, R166),
the gate of the interrupt (R55), transmit exclusion (R84, R194), the scroll accumulator (R264), the saturating
counters (R275, R330), the recorded times (R277) and the error codes (R300). -/
def Obligations.InvKept : Prop := ∀ s t : State, Inv s → step s = .next t → Inv t

/-- The three invariants hold after reset. The parameters there are the defaults (log 1) and
the environment's values those of log 2. -/
def Obligations.InvariantsAtReset : Prop := Inv State.reset ∧ RunInv State.reset ∧ DesyncInv State.reset

/-- The block's own runs never stop: from a state of a run every step, whoever moves, gives a next state, and
that is again a state of a run (R313: "No state of the block is terminal"). -/
def Obligations.RunsNeverStop : Prop := ∀ s : State, RunInv s → ∃ t, step s = .next t ∧ RunInv t

/-- The invariant of R220 along the block's own runs: whenever the session is desynchronised, an error is
recorded, but between ML_RECOVER's clear and the bring-up right after it. -/
def Obligations.DesyncKept : Prop := ∀ s t : State, DesyncInv s → step s = .next t → DesyncInv t

/-- Time never decreases, only the clock moves it (R50), and no step changes a parameter (R56): no operation
moves time, and no step but one whose move is the clock's does. The moves and the slot are the model's (log 3,
log 4). -/
def Obligations.TimeAndParameters : Prop :=
  (∀ (i : Instr) (s t : State), exec i s = .next t → t.now = s.now ∧ t.par = s.par) ∧
  (∀ s t : State, step s = .next t → s.now ≤ t.now ∧ t.par = s.par) ∧
  (∀ s t : State, (s.slot ≠ none ∨ ∀ d, s.nextMove ≠ .clock d) → step s = .next t → t.now = s.now)

/-- In the block's own runs events are only ever appended (R52). -/
def Obligations.EventsOnlyAppended : Prop :=
  ∀ s t : State, RunInv s → step s = .next t → ∃ es, t.hostOut = s.hostOut ++ es

/-- Who writes what (R36 to R43, R45, R88 "no other writers"): the auxiliary bits, the shown buttons, the scroll
accumulator, the timer, the switch latches, the heartbeat count and time, the bring-up's position, the Main
Loop's state, the Session State. First over every operation, then over every return point, then over the moves of
the other agents: these are all the steps there are. bring_up, ML_HEARTBEAT and get_report make their later writes
at their return points, and the recovery's return stands at one (log 7, log 19). The table rows EXT_PACKET and
EXT_AUXBTN are XD_DECODE on the Report they carry (log 13). -/
def Obligations.SingleWriters : Prop :=
  (∀ (i : Instr) (s t : State), exec i s = .next t → i ≠ .reset →
    ((t.auxMid = s.auxMid ∧ t.auxScr = s.auxScr) ∨ i = .xdDecode ∨ ∃ r, i = .extPacket r ∨ i = .extAuxbtn r) ∧
    (t.btnPrev = s.btnPrev ∨ ∃ v, i = .rtEdges v) ∧
    (t.scrollAcc = s.scrollAcc ∨ ∃ b x y, i = .seStep b x y) ∧
    (t.tLast = s.tLast ∨ ∃ a, i = .itRealEvent a) ∧
    (t.jigN = s.jigN ∨ i = .itStep ∨ ∃ a, i = .itRealEvent a) ∧
    ((t.cfgSwap = s.cfgSwap ∧ t.cfgJiggle = s.cfgJiggle ∧ t.cfgScroll = s.cfgScroll) ∨ i = .mlIterBegin) ∧
    ((t.hbN = s.hbN ∧ t.tHb = s.tHb) ∨ i = .mlHeartbeat) ∧
    (t.ssStep = s.ssStep ∨ i = .bringUp) ∧ (t.loopState = s.loopState ∨ i = .mlIterBegin) ∧
    (t.sess = s.sess ∨ i = .bringUp ∨ i = .mlIterBegin ∨ i = .mlCheck)) ∧
  (∀ (c : Cont) (s : State),
    let t := State.resume c s
    t.auxMid = s.auxMid ∧ t.auxScr = s.auxScr ∧ t.btnPrev = s.btnPrev ∧ t.scrollAcc = s.scrollAcc ∧
    t.tLast = s.tLast ∧ t.jigN = s.jigN ∧ t.cfgSwap = s.cfgSwap ∧ t.cfgJiggle = s.cfgJiggle ∧
    t.cfgScroll = s.cfgScroll ∧ t.hbN = s.hbN ∧ (t.tHb = s.tHb ∨ c = .bringUpNext) ∧
    (t.ssStep = s.ssStep ∨ c = .bringUpNext) ∧ (t.loopState = s.loopState ∨ c = .liRecovered) ∧
    (t.sess = s.sess ∨ c = .bringUpNext ∨ c = .hbRequested ∨ (∃ left, c = .hbByte left) ∨ c = .repRequested ∨
      ∃ polled, c = .repByte polled)) ∧
  (∀ (m : Move) (s t : State), m ≠ .loop → s.makeMove m = .next t →
    t.auxMid = s.auxMid ∧ t.auxScr = s.auxScr ∧ t.btnPrev = s.btnPrev ∧ t.scrollAcc = s.scrollAcc ∧
    t.tLast = s.tLast ∧ t.jigN = s.jigN ∧ t.cfgSwap = s.cfgSwap ∧ t.cfgJiggle = s.cfgJiggle ∧
    t.cfgScroll = s.cfgScroll ∧ t.hbN = s.hbN ∧ t.tHb = s.tHb ∧ t.ssStep = s.ssStep ∧
    t.loopState = s.loopState ∧ t.sess = s.sess)

/-- The block never interrupts itself (R307): in its own runs no step of the loop context makes an edge pending,
and where one drives the clock low the interrupt is off. -/
def Obligations.NeverInterruptsItself : Prop :=
  ∀ s t : State, RunInv s → s.loopStep = .next t →
    (t.rxPending = true → s.rxPending = true) ∧ (s.hClk = .rel → t.hClk = .low → t.rxIe = false)

/-- Where operations stop: RX_EDGE without an edge to serve (R160), an operation of the transmitter outside its
phase (R182, R183), a send while one is in progress (R180), a read of PING outside it (R71), overlapping button
masks. These are the model's refusals and its one fault (log 10, log 15, log 21). -/
def Obligations.WhereOperationsStop : Prop :=
  ∀ s : State,
    (s.rxIe = false ∨ s.rxPending = false → exec .rxEdge s = .refused .notEnabled) ∧
    (s.txPhase ≠ .req1 → exec .txReq1 s = .refused .notEnabled) ∧
    (s.txPhase ≠ .req2 → exec .txReq2 s = .refused .notEnabled) ∧
    (s.txPhase ≠ .req3 → exec .txReq3 s = .refused .notEnabled) ∧
    (s.txPhase ≠ .waitDev → exec .txWaitDev s = .refused .notEnabled) ∧
    (s.txPhase ≠ .bitSet → exec .txBitSet s = .refused .notEnabled) ∧
    (s.txPhase ≠ .bitHi → exec .txBitHi s = .refused .notEnabled) ∧
    (s.txPhase ≠ .bitLo → exec .txBitLo s = .refused .notEnabled) ∧
    (s.txPhase ≠ .stop → exec .txStop s = .refused .notEnabled) ∧
    (s.txPhase ≠ .waitAck → s.txPhase ≠ .ackLow → exec .txWaitAck s = .refused .notEnabled) ∧
    (s.txPhase ≠ .done → exec .txDone s = .refused .notEnabled) ∧
    (∀ b, s.txPhase ≠ .off → exec (.txStart b) s = .refused .txBusy ∧ exec (.txSend b) s = .refused .txBusy) ∧
    (∀ i, 17 ≤ i → exec (.ssPing i) s = .fault .pingIndex) ∧
    (s.par.buttonMasksDisjoint = false → exec .rtTranslate s = .refused .overlappingButtonMasks)

/-! ## Reset -/

/-- R61: every value the table gives, after power-on and after the operation `reset` from any state. -/
def Obligations.ResetValues : Prop :=
  (∀ s, ∃ t, exec .reset s = .next t ∧
    t.hClk = .rel ∧ t.hDat = .rel ∧ t.clkPrev = t.clk ∧ t.rxPending = false ∧ t.rxPos = 0 ∧ t.rxAcc = 0x00 ∧
    t.rxPar = true ∧ t.rxIe = false ∧ t.err = 0 ∧ t.mb = [] ∧ t.txPhase = .off ∧ t.sess = .idle ∧
    t.ssStep = .reset ∧ t.auxMid = false ∧ t.auxScr = false ∧ t.btnPrev = ⟨false, false, false, false⟩ ∧
    t.scrollAcc = 0 ∧ t.tLast = t.now ∧ t.jigN = 0 ∧ t.loopState = .normal ∧ t.hbN = 0 ∧ t.tHb = t.now ∧
    t.hostOut = []) ∧
  (State.reset.hClk = .rel ∧ State.reset.hDat = .rel ∧ State.reset.clkPrev = State.reset.clk ∧
    State.reset.rxPending = false ∧ State.reset.rxPos = 0 ∧ State.reset.rxAcc = 0x00 ∧ State.reset.rxPar = true ∧
    State.reset.rxIe = false ∧ State.reset.err = 0 ∧ State.reset.mb = [] ∧ State.reset.txPhase = .off ∧
    State.reset.sess = .idle ∧ State.reset.ssStep = .reset ∧ State.reset.auxMid = false ∧
    State.reset.auxScr = false ∧ State.reset.btnPrev = ⟨false, false, false, false⟩ ∧ State.reset.scrollAcc = 0 ∧
    State.reset.tLast = State.reset.now ∧ State.reset.jigN = 0 ∧ State.reset.loopState = .normal ∧
    State.reset.hbN = 0 ∧ State.reset.tHb = State.reset.now ∧ State.reset.hostOut = [])

/-- The operation `reset` changes nothing of the environment (R22, R50, R51), of the parameters (R56) or of the
order of moves: the model's choice where R61 says "unspecified (environment)" or nothing (log 23). -/
def Obligations.ResetKeepsEnvironment : Prop :=
  ∀ s, ∃ t, exec .reset s = .next t ∧ t.dClk = s.dClk ∧ t.dDat = s.dDat ∧ t.now = s.now ∧ t.inSwap = s.inSwap ∧
    t.inJiggle = s.inJiggle ∧ t.inScroll = s.inScroll ∧ t.hostSuspended = s.hostSuspended ∧ t.par = s.par ∧
    t.sched = s.sched ∧ t.nFree = s.nFree

/-! ## Link Mailbox -/

/-- MB_PUSH, MB_PULL, MB_EMPTY, MB_RESET (R141 to R144): each changes only the mailbox and the value returned. -/
def Obligations.MailboxOperations : Prop :=
  ∀ (v : Byte) (s : State),
    exec (.mbPush v) s = .next { s with mb := if s.mb.length < 16 then s.mb ++ [v] else s.mb } ∧
    (s.mb = [] → exec .mbPull s = .next { s with ret := .byte none }) ∧
    (∀ w ms, s.mb = w :: ms → exec .mbPull s = .next { s with mb := ms, ret := .byte (some w) }) ∧
    exec .mbEmpty s = .next { s with ret := .flag (decide (s.mb.length = 0)) } ∧
    exec .mbReset s = .next { s with mb := [] }

/-- R145, R81: pushes into an empty mailbox up to its sixteen slots are all kept, any beyond are dropped, and
pulls give the bytes back in the order they entered. -/
def Obligations.MailboxFifo : Prop :=
  (∀ (bs cs : List Byte) (s : State), s.mb = [] → bs.length ≤ 16 → (cs ≠ [] → bs.length = 16) →
    execAll ((bs ++ cs).map .mbPush) s = .next { s with mb := bs }) ∧
  (∀ (bs ms : List Byte) (b : Byte) (s : State), s.mb = bs ++ b :: ms →
    execAll (List.replicate (bs.length + 1) .mbPull) s = .next { s with mb := ms, ret := .byte (some b) })

/-- The sixteen-slot ring of R32 does what the sequence does under the four operations (R70, R141, R142, R144),
keeps its own invariant, and has it after reset (log 16). -/
def Obligations.RingRefinesMailbox : Prop :=
  (∀ (r : Ring) (v : Byte), r.wf → (r.push v).wf ∧ (r.push v).seq = mailboxPush r.seq v) ∧
  (∀ r : Ring, r.wf → r.pulled = r.seq.head? ∧ r.pull.wf ∧ r.pull.seq = r.seq.tail) ∧
  (∀ r : Ring, r.wf → r.reset.wf ∧ r.reset.seq = []) ∧ Ring.initial.wf ∧ Ring.initial.seq = []

/-- A pass of mb_wait (R146): a byte present is returned even past the deadline; else the deadline ends the
wait; else the loop goes on. The waiting is a return point of the control stack (log 7). -/
def Obligations.MailboxWait : Prop :=
  ∀ (t deadline : Nat) (rest : List Task) (s : State),
    exec (.mbWait t) s = .next { s with ctl := .k (.mbPoll (s.now + t)) :: s.ctl } ∧
    (s.ctl = .k (.mbPoll deadline) :: rest →
      (∀ v ms, s.mb = v :: ms → s.loopStep = .next { s with mb := ms, ret := .byte (some v), ctl := rest }) ∧
      (s.mb = [] → deadline ≤ s.now → s.loopStep = .next { s with ret := .byte none, ctl := rest }) ∧
      (s.mb = [] → s.now < deadline → s.loopStep = .next { s with ret := .byte none }))

/-! ## Link Receiver -/

/-- RX_EDGE at each bit position (R161 to R167, R170): the pending edge is cleared; a high clock changes nothing
else; the start, data, parity and stop bits do what their rules say. -/
def Obligations.ReceiverEdge : Prop :=
  ∀ s : State, s.rxIe = true → s.rxPending = true →
    (s.clk = true → exec .rxEdge s = .next { s with rxPending := false }) ∧
    (s.clk = false → s.rxPos = 0 → s.dat = false →
      exec .rxEdge s = .next { s with rxPending := false, rxPos := 1 }) ∧
    (s.clk = false → s.rxPos = 0 → s.dat = true →
      exec .rxEdge s =
        .next { s with rxPending := false, err := 0x01, rxPos := 0, rxAcc := 0x00, rxPar := true }) ∧
    (s.clk = false → 1 ≤ s.rxPos.val → s.rxPos.val ≤ 8 →
      exec .rxEdge s = .next { s with
        rxPending := false, rxAcc := (s.rxAcc >>> 1) ||| (if s.dat then 0x80 else 0x00),
        rxPar := s.rxPar ^^ s.dat, rxPos := s.rxPos + 1 }) ∧
    (s.clk = false → s.rxPos = 9 → s.dat = s.rxPar →
      exec .rxEdge s = .next { s with rxPending := false, rxPos := 10 }) ∧
    (s.clk = false → s.rxPos = 9 → s.dat ≠ s.rxPar →
      exec .rxEdge s =
        .next { s with rxPending := false, err := 0x02, rxPos := 0, rxAcc := 0x00, rxPar := true }) ∧
    (s.clk = false → s.rxPos = 10 → s.dat = true →
      exec .rxEdge s = .next { s with
        rxPending := false, mb := if s.mb.length < 16 then s.mb ++ [s.rxAcc] else s.mb,
        rxPos := 0, rxAcc := 0x00, rxPar := true }) ∧
    (s.clk = false → s.rxPos = 10 → s.dat = false →
      exec .rxEdge s =
        .next { s with rxPending := false, err := 0x03, rxPos := 0, rxAcc := 0x00, rxPar := true })

/-- RX_RESET (R168). -/
def Obligations.ReceiverReset : Prop :=
  ∀ s : State,
    exec .rxReset s = .next { s with rxPos := 0, rxAcc := 0x00, rxPar := true, rxPending := false }

/-- R173, R172: a frame built with correct start, parity and stop, clocked out by the device while the receiver
is at rest and enabled, is received as exactly its byte, a full mailbox drops it, and no error is raised. The
response rows are the frames of their bytes. The rows mean eleven clock cycles of the device (log 11); the
response bytes are the spec's general-knowledge defaults (log 14). -/
def Obligations.FrameReceived : Prop :=
  ∀ (b : Byte) (s : State), s.rxIe = true → s.hClk = .rel → s.hDat = .rel → s.rxPos = 0 → s.rxPar = true →
    let received (v : Byte) : State := { s with
      dClk := .rel, dDat := .rel, clkPrev := true, rxPos := 0, rxAcc := 0x00, rxPar := true, rxPending := false,
      mb := if s.mb.length < 16 then s.mb ++ [v] else s.mb }
    exec (.frame b (oddpar b)) s = .next (received b) ∧
    exec .rspAck s = .next (received 0xFA) ∧
    exec .rspSelftestOk s = .next (received 0xAA) ∧
    exec .rspDeviceId s = .next (received 0x00)

/-- R171, R173: a frame with the wrong parity pushes nothing; the error of its parity bit is followed by that of
its stop bit, taken as a start bit; the receiver ends at rest (the row's meaning: log 11). -/
def Obligations.FrameWrongParity : Prop :=
  ∀ (b : Byte) (s : State), s.rxIe = true → s.hClk = .rel → s.hDat = .rel → s.rxPos = 0 → s.rxPar = true →
    exec (.frame b (!oddpar b)) s = .next { s with
      dClk := .rel, dDat := .rel, clkPrev := true, rxPos := 0, rxAcc := 0x00, rxPar := true, rxPending := false,
      err := 0x01 }

/-- R102, R125, R173: eleven bits that are the frame of no byte leave the mailbox as it was and an error
recorded; with only the stop bit wrong the error is E_STOP and the receiver ends at rest. -/
def Obligations.InvalidFramePushesNothing : Prop :=
  ∀ (bits : List Bool) (s : State), bits.length = 11 → (∀ b, bits ≠ frameOf b) →
    s.rxIe = true → s.hClk = .rel → s.hDat = .rel → s.rxPos = 0 → s.rxPar = true →
    (s.devBits bits).mb = s.mb ∧ (s.devBits bits).err ≠ 0 ∧
    (∀ b, bits = [false, bit b 0, bit b 1, bit b 2, bit b 3, bit b 4, bit b 5, bit b 6, bit b 7, oddpar b, false] →
      (s.devBits bits).err = 0x03 ∧ (s.devBits bits).rxPos = 0)

/-- R160, R54: bits the device clocks out while the interrupt is off change nothing but the lines; every FRAME
row completes so. -/
def Obligations.FrameWhileDisabled : Prop :=
  ∀ (bits : List Bool) (data : Byte) (p : Bool) (s : State), s.rxIe = false → s.rxPending = false →
    s.devBits bits = { s with dClk := .rel, dDat := .rel, clkPrev := wiredAnd s.hClk .rel } ∧
    exec (.frame data p) s = .next { s with dClk := .rel, dDat := .rel, clkPrev := wiredAnd s.hClk .rel }

/-- R84, R194: while a send is in progress no receive occurs: RX_EDGE is not enabled, the interrupt context's
move changes nothing, and a whole frame of clock edges changes nothing but the lines. -/
def Obligations.TransmitExcludesReceive : Prop :=
  ∀ (bits : List Bool) (s : State), Inv s → s.txPhase ≠ .off →
    exec .rxEdge s = .refused .notEnabled ∧ s.makeMove .isr = .next s ∧
    s.devBits bits = { s with dClk := .rel, dDat := .rel, clkPrev := wiredAnd s.hClk .rel }

/-! ## Link Transmitter -/

/-- TX_START (R181): runs exactly while no send is in progress. -/
def Obligations.TransmitStart : Prop :=
  ∀ (b : Byte) (s : State),
    (s.txPhase = .off → exec (.txStart b) s = .next { s with
      rxIe := false, rxPos := 0, rxAcc := 0x00, rxPar := true, rxPending := false,
      txByte := b, txI := 0, txDeadline := s.now + s.par.tTx,
      hClk := .rel, hDat := .rel, clkPrev := wiredAnd .rel s.dClk, txPhase := .req1 }) ∧
    (s.txPhase ≠ .off → ∀ t, exec (.txStart b) s ≠ .next t)

/-- TX_REQ1, TX_REQ2, TX_REQ3 (R182), each enabled in the phase of its own name; a change of the clock passes
the edge detector (R54, R55). -/
def Obligations.TransmitRequest : Prop :=
  ∀ s : State,
    (s.txPhase = .req1 → exec .txReq1 s = .next { s with
      hClk := .low, clkPrev := false, rxPending := s.rxPending || (s.clkPrev && s.rxIe), txPhase := .req2 }) ∧
    (s.txPhase = .req2 → exec .txReq2 s = .next { s with hDat := .low, txPhase := .req3 }) ∧
    (s.txPhase = .req3 → exec .txReq3 s = .next { s with
      hClk := .rel, clkPrev := wiredAnd .rel s.dClk,
      rxPending := s.rxPending || (s.clkPrev && !wiredAnd .rel s.dClk && s.rxIe), txPhase := .waitDev }) ∧
    (s.txPhase ≠ .req1 → ∀ t, exec .txReq1 s ≠ .next t) ∧
    (s.txPhase ≠ .req2 → ∀ t, exec .txReq2 s ≠ .next t) ∧
    (s.txPhase ≠ .req3 → ∀ t, exec .txReq3 s ≠ .next t)

/-- The waits (R183, R184, R187, R189): the condition first, then the deadline, which aborts, else the phase
stays. The phase after TX_WAIT_ACK is the model's reading of R189 against R33 (log 8); its phase `ackLow` is the
wait for the acknowledge bit that R189 lets a model insert, with the condition `dat = 0` of D15 (log 9). -/
def Obligations.TransmitWaits : Prop :=
  ∀ s : State,
    (s.txPhase = .waitDev →
      (s.clk = false → exec .txWaitDev s = .next { s with txPhase := .bitSet }) ∧
      (s.clk = true → s.txDeadline ≤ s.now → exec .txWaitDev s = exec .txAbort s) ∧
      (s.clk = true → s.now < s.txDeadline → exec .txWaitDev s = .next s)) ∧
    (s.txPhase = .bitHi →
      (s.clk = true → exec .txBitHi s = .next { s with txPhase := .bitLo }) ∧
      (s.clk = false → s.txDeadline ≤ s.now → exec .txBitHi s = exec .txAbort s) ∧
      (s.clk = false → s.now < s.txDeadline → exec .txBitHi s = .next s)) ∧
    (s.txPhase = .bitLo →
      (s.clk = false → s.txI.val < 8 →
        exec .txBitLo s = .next { s with txI := s.txI + 1, txPhase := .bitSet }) ∧
      (s.clk = false → s.txI.val = 8 → exec .txBitLo s = .next { s with txPhase := .stop }) ∧
      (s.clk = true → s.txDeadline ≤ s.now → exec .txBitLo s = exec .txAbort s) ∧
      (s.clk = true → s.now < s.txDeadline → exec .txBitLo s = .next s)) ∧
    (s.txPhase = .waitAck →
      (s.clk = true → s.dat = true → exec .txWaitAck s = .next { s with txPhase := .done }) ∧
      (s.clk = false ∨ s.dat = false → s.txDeadline ≤ s.now → exec .txWaitAck s = exec .txAbort s) ∧
      (s.clk = false ∨ s.dat = false → s.now < s.txDeadline → exec .txWaitAck s = .next s)) ∧
    (s.txPhase = .ackLow →
      (s.dat = false → exec .txWaitAck s = .next { s with txPhase := .waitAck }) ∧
      (s.dat = true → s.txDeadline ≤ s.now → exec .txWaitAck s = exec .txAbort s) ∧
      (s.dat = true → s.now < s.txDeadline → exec .txWaitAck s = .next s))

/-- TX_BIT_SET (R186): data bits least significant first, then the odd parity, released for 1 and low for 0. -/
def Obligations.TransmitBit : Prop :=
  ∀ s : State, s.txPhase = .bitSet →
    (∀ k : Nat, k < 8 → s.txI.val = k → exec .txBitSet s = .next { s with
      hDat := if bit s.txByte k then .rel else .low, txPhase := .bitHi }) ∧
    (s.txI.val = 8 → exec .txBitSet s = .next { s with
      hDat := if oddpar s.txByte then .rel else .low, txPhase := .bitHi })

/-- TX_STOP, TX_DONE, TX_ABORT and bus_stop (R188, R190, R191, R192); after TX_STOP comes the extra wait of R189
where the parameter asks for it (log 9); bus_stop as a procedure is two steps (log 7, log 18). -/
def Obligations.TransmitEnd : Prop :=
  ∀ s : State,
    (s.txPhase = .stop → exec .txStop s = .next { s with
      hDat := .rel, txPhase := if s.par.txAckWaitLow then .ackLow else .waitAck }) ∧
    (s.txPhase = .done → exec .txDone s = .next { s with rxIe := true, txPhase := .off, ret := .status true }) ∧
    exec .txAbort s = .next { s with
      hClk := .low, hDat := .rel, clkPrev := false, rxPending := s.rxPending || (s.clkPrev && s.rxIe),
      err := 0x04, txPhase := .off, ret := .status false } ∧
    exec .busStop s = .next { s with
      hClk := .low, clkPrev := false, rxPending := s.rxPending || (s.clkPrev && s.rxIe),
      ctl := .k .busStopDat :: s.ctl } ∧
    (∀ rest, s.ctl = .k .busStopDat :: rest → s.loopStep = .next { s with hDat := .rel, ctl := rest })

/-- R180, R193, R197: a whole tx_send against a device that answers every wait at once ends in `ok` with the
interrupt enabled, both lines released and `err` as it was, and the levels the device sees at its rising edges
are the eight data bits least significant first, the odd parity and the stop bit. Against a device that gives an
acknowledge pulse the default admits the run of R352, in which the pulse is taken as a start bit; with
`TX_ACK_WAIT_LOW` the send, polled at each point of the pulse, ends as without one (D15, log 9). The moves count the
return point of the send (log 7) and the phase TX_DONE (log 8). -/
def Obligations.SendWhole : Prop :=
  ∀ (b : Byte) (rest : List Task) (s : State), s.slot = none → s.ctl = .op (.txSend b) :: rest →
    s.txPhase = .off → s.dDat = .rel →
    let sent : State := { s with
      hClk := .rel, hDat := .rel, dClk := .rel, dDat := .rel, clkPrev := true,
      rxPos := 0, rxAcc := 0x00, rxPar := true, rxIe := true, rxPending := false,
      txPhase := .off, txByte := b, txI := 8, txDeadline := s.now + s.par.tTx,
      ret := .status true, ctl := rest }
    (s.par.txAckWaitLow = false → runMoves (.loop :: sendMoves ++ [.loop]) s = .next sent ∧
      levelsAtRises (.loop :: sendMoves) s =
        [bit b 0, bit b 1, bit b 2, bit b 3, bit b 4, bit b 5, bit b 6, bit b 7, oddpar b, true]) ∧
    (s.par.txAckWaitLow = false → runMoves (.loop :: sendHazardMoves ++ [.loop]) s = .next { sent with
      dClk := .low, dDat := .low, clkPrev := false, rxPos := 1 }) ∧
    (s.par.txAckWaitLow = true → 0 < s.par.tTx → runMoves (.loop :: sendAckMoves ++ [.loop]) s = .next sent)

/-- R183, R191, R195: against a device that never takes the clock, a tx_send fails once its deadline has passed:
the bus is stopped, the error is E_TX_TIMEOUT, and the interrupt stays off. The moves count the return point of the
send (log 7). -/
def Obligations.SendTimesOut : Prop :=
  ∀ (b : Byte) (wait : Nat) (rest : List Task) (s : State), s.slot = none → s.ctl = .op (.txSend b) :: rest →
    s.txPhase = .off → s.dClk = .rel → s.par.tTx ≤ wait →
    runMoves ([.loop, .loop, .loop, .loop, .loop, .clock wait, .loop, .loop]) s = .next { s with
      hClk := .low, hDat := .rel, clkPrev := false,
      rxPos := 0, rxAcc := 0x00, rxPar := true, rxIe := false, rxPending := false, err := 0x04,
      txPhase := .off, txByte := b, txI := 0, txDeadline := s.now + s.par.tTx, now := s.now + wait,
      ret := .status false, ctl := rest }

/-! ## Session Controller -/

/-- tx_send and send_cmd (R180, R203) and expect (R204): what each does first and at its return points; the two
uses of expect are those of SS_RESET, with `T_BAT` and then `T_ID` (R211). Their bodies stand on the control stack
(log 7), and the raise of a time-out stands at the return point (log 19). -/
def Obligations.SendCommand : Prop :=
  ∀ (b : Byte) (t : Nat) (rest : List Task) (s : State),
    (s.txPhase = .off → exec (.txSend b) s = .next { s with ctl := .op (.txStart b) :: .txRun :: s.ctl }) ∧
    (s.txPhase = .off → s.ctl = .txRun :: rest → s.loopStep = .next { s with ctl := rest }) ∧
    exec (.sendCmd b t) s = .next { s with ctl := .op (.txSend b) :: .k (.cmdSent t) :: s.ctl } ∧
    (s.ctl = .k (.cmdSent t) :: rest → s.ret = .status false →
      s.loopStep = .next { s with ret := .reply none, ctl := rest }) ∧
    (s.ctl = .k (.cmdSent t) :: rest → s.ret = .status true →
      s.loopStep = .next { s with ctl := .op (.mbWait t) :: .k .hsReply :: rest }) ∧
    (s.ctl = .k .hsReply :: rest → s.ret = .byte none →
      s.loopStep = .next { s with err := 0x05, ret := .reply none, ctl := rest }) ∧
    (∀ v, s.ctl = .k .hsReply :: rest → s.ret = .byte (some v) →
      s.loopStep = .next { s with ret := .reply (some v), ctl := rest }) ∧
    (∀ v, s.ctl = .k .resetBat :: rest → s.ret = .reply (some v) →
      s.loopStep = .next { s with ctl := .op (.mbWait s.par.tBat) :: .k .hsReply :: .k .resetId :: rest }) ∧
    (∀ v, s.ctl = .k .resetId :: rest → s.ret = .reply (some v) →
      s.loopStep = .next { s with ctl := .op (.mbWait s.par.tId) :: .k .hsReply :: rest }) ∧
    (s.ctl = .k .resetBat :: rest ∨ s.ctl = .k .resetId :: rest → s.ret = .reply none →
      s.loopStep = .next { s with ret := .status false, ctl := rest })

/-- The steps of a bring-up (R211 to R215) and its entry (R210): what each sends first, and the argument byte of
SS_RATE after its command (R212). Their bodies stand on the control stack (log 7). -/
def Obligations.BringUpSteps : Prop :=
  ∀ s : State,
    exec .bringUp s = .next { s with
      sess := .resetting, ssStep := .reset, ctl := .op .ssReset :: .k .bringUpNext :: s.ctl } ∧
    exec .ssReset s = .next { s with
      ctl := .op (.sendCmd s.par.cmdReset s.par.tAck) :: .k .resetBat :: s.ctl } ∧
    (s.par.sampleRate = none → exec .ssRate s = .next { s with ret := .status true }) ∧
    (∀ r, s.par.sampleRate = some r → exec .ssRate s = .next { s with
      ctl := .op (.sendCmd s.par.cmdSetRate s.par.tAck) :: .k (.rateArg r) :: s.ctl }) ∧
    (∀ r v rest, s.ctl = .k (.rateArg r) :: rest → s.ret = .reply (some v) →
      s.loopStep = .next { s with ctl := .op (.sendCmd r s.par.tAck) :: rest }) ∧
    (∀ r rest, s.ctl = .k (.rateArg r) :: rest → s.ret = .reply none →
      s.loopStep = .next { s with ret := .status false, ctl := rest }) ∧
    (s.par.mode = .stream → exec .ssMode s = .next { s with
      ctl := .op (.sendCmd s.par.cmdSetStream s.par.tAck) :: s.ctl }) ∧
    (s.par.mode = .remote → exec .ssMode s = .next { s with
      ctl := .op (.sendCmd s.par.cmdSetRemote s.par.tAck) :: s.ctl }) ∧
    (∀ i b, i < 17 → s.par.ping[i]? = some b → exec (.ssPing i) s = .next { s with
      ctl := .op (.sendCmd b s.par.tAck) :: s.ctl }) ∧
    (s.par.mode = .stream → exec .ssEnable s = .next { s with
      ctl := .op (.sendCmd s.par.cmdEnable s.par.tAck) :: s.ctl }) ∧
    (s.par.mode = .remote → exec .ssEnable s = .next { s with ret := .status true })

/-- R210 to R215, R221: against a device that answers every byte and every wait, a bring-up sends the reset and
takes the self-test and the ID byte, then sends the rate and its argument where one is configured, the mode, the
seventeen ping bytes in index order, and in Streaming mode the enable, each byte sent with its one response within
`T_ACK`; it ends in `ok`, in the session of its mode, with the heartbeat timer restarted. The bound 100 on the
steps counts the return points (log 7). -/
def Obligations.BringUpBytes : Prop :=
  ∀ (v : Byte) (s : State), s.par.ping.length = 17 →
    let sent (b : Byte) : LinkCall := .send b s.par.tAck
    linkCalls v 100 { s with ctl := [.op .bringUp] } =
      ([sent s.par.cmdReset, .take s.par.tBat, .take s.par.tId] ++
        (match s.par.sampleRate with | none => [] | some r => [sent s.par.cmdSetRate, sent r]) ++
        [sent (match s.par.mode with | .remote => s.par.cmdSetRemote | .stream => s.par.cmdSetStream)] ++
        s.par.ping.map sent ++ (match s.par.mode with | .stream => [sent s.par.cmdEnable] | .remote => []),
      { s with
        ctl := [], ret := .status true, ssStep := .done, tHb := s.now,
        sess := match s.par.mode with | .stream => .streaming | .remote => .remotePolling })

/-- R210, R223, at bring_up's return point: a step that fails ends the bring-up in DESYNC with `fail`, nothing
else changed; after one that succeeds the bring-up goes on with the next step `ss_step` names, and after the last
it is over, in the session of its mode (R220). That the assignments to `sess`, `ss_step` and `t_hb` stand there is
the model's reading (log 7, log 19). -/
def Obligations.BringUpAbandoned : Prop :=
  ∀ (rest : List Task) (s : State), s.ctl = .k .bringUpNext :: rest →
    (s.ret = .status false ∨ s.ret = .reply none →
      s.loopStep = .next { s with sess := .desync, ret := .status false, ctl := rest }) ∧
    ((s.ret = .status true ∨ ∃ v, s.ret = .reply (some v)) →
      (s.ssStep = .reset → s.loopStep = .next { s with
        sess := .negotiating, ssStep := .rate, ctl := .op .ssRate :: .k .bringUpNext :: rest }) ∧
      (s.ssStep = .rate → s.loopStep = .next { s with
        ssStep := .mode, ctl := .op .ssMode :: .k .bringUpNext :: rest }) ∧
      (s.ssStep = .mode → s.loopStep = .next { s with
        ssStep := .ping 0, ctl := .op (.ssPing 0) :: .k .bringUpNext :: rest }) ∧
      (∀ i, s.ssStep = .ping i → i.val < 16 → s.loopStep = .next { s with
        ssStep := .ping (i + 1), ctl := .op (.ssPing (i.val + 1)) :: .k .bringUpNext :: rest }) ∧
      (s.ssStep = .ping 16 → s.loopStep = .next { s with
        ssStep := .enable, ctl := .op .ssEnable :: .k .bringUpNext :: rest }) ∧
      (s.ssStep = .enable → s.loopStep = .next { s with
        ssStep := .done, sess := match s.par.mode with | .stream => .streaming | .remote => .remotePolling,
        tHb := s.now, ret := .status true, ctl := rest }))

/-- The command rows (R115, R116, R126): each sends its byte and takes the response bytes the table gives it.
That a row stands for that transaction is the model's reading, and so is CMD_SET_RATE with `SAMPLE_RATE = none`,
the command byte alone (log 12). -/
def Obligations.CommandRows : Prop :=
  ∀ s : State,
    exec .cmdReset s = .next { s with
      ctl := .op (.sendCmd s.par.cmdReset s.par.tAck) :: .k .resetBat :: s.ctl } ∧
    exec .cmdEnable s = .next { s with ctl := .op (.sendCmd s.par.cmdEnable s.par.tAck) :: s.ctl } ∧
    exec .cmdDisable s = .next { s with ctl := .op (.sendCmd s.par.cmdDisable s.par.tAck) :: s.ctl } ∧
    (s.par.sampleRate = none →
      exec .cmdSetRate s = .next { s with ctl := .op (.sendCmd s.par.cmdSetRate s.par.tAck) :: s.ctl }) ∧
    (∀ r, s.par.sampleRate = some r → exec .cmdSetRate s = .next { s with
      ctl := .op (.sendCmd s.par.cmdSetRate s.par.tAck) :: .k (.rateArg r) :: s.ctl }) ∧
    exec .cmdSetRemote s = .next { s with ctl := .op (.sendCmd s.par.cmdSetRemote s.par.tAck) :: s.ctl } ∧
    exec .cmdSetStream s = .next { s with ctl := .op (.sendCmd s.par.cmdSetStream s.par.tAck) :: s.ctl } ∧
    exec .cmdReadData s = .next { s with
      repN := 0, ctl := .op (.sendCmd s.par.cmdReadData s.par.tAck) :: .k .repRequested :: s.ctl } ∧
    exec .cmdStatus s = .next { s with
      ctl := .op (.sendCmd s.par.cmdStatus s.par.tAck) :: .k .hbRequested :: s.ctl }

/-- The seventeen table rows (R120, R214): each sends the ping byte of its index and takes one response byte.
That a row stands for that transaction is the model's reading (log 12). -/
def Obligations.PingRows : Prop :=
  ∀ (k : Nat) (i : Instr) (b : Byte) (s : State),
    (k, i) ∈ [(0, Instr.ping00), (1, .ping01), (2, .ping02), (3, .ping03), (4, .ping04), (5, .ping05), (6, .ping06),
      (7, .ping07), (8, .ping08), (9, .ping09), (10, .ping10), (11, .ping11), (12, .ping12), (13, .ping13),
      (14, .ping14), (15, .ping15), (16, .ping16)] →
    s.par.ping[k]? = some b → exec i s = .next { s with ctl := .op (.sendCmd b s.par.tAck) :: s.ctl }

/-! ## Extended-Protocol Decoder and Report Translator -/

/-- XD_DECODE (R231, R232): a motion Report changes nothing, an auxiliary-button packet sets both bits from byte
2, an extended packet of another subtype is handled and changes nothing. -/
def Obligations.ExtendedDecode : Prop :=
  ∀ s : State,
    (isExt s.par s.rep = false → exec .xdDecode s = .next { s with ret := .decoded false }) ∧
    (isExt s.par s.rep = true → isAuxbtn s.par s.rep = true → exec .xdDecode s = .next { s with
      auxScr := bit s.rep.b2 s.par.auxScrBit.val, auxMid := bit s.rep.b2 s.par.auxMidBit.val,
      ret := .decoded true }) ∧
    (isExt s.par s.rep = true → isAuxbtn s.par s.rep = false →
      exec .xdDecode s = .next { s with ret := .decoded true })

/-- The rows REPORT, EXT_PACKET and EXT_AUXBTN (R105, R110, R111): the three bytes become the Report obtained;
REPORT begins its processing with XD_DECODE (R287), the other two are XD_DECODE on it. That the rows stand for
this is the model's reading (log 13). -/
def Obligations.ReportRows : Prop :=
  ∀ (r : Report) (s : State),
    exec (.report r) s = .next { s with rep := r, repN := 3, ctl := .op .xdDecode :: .k .prDecoded :: s.ctl } ∧
    exec (.extPacket r) s = exec .xdDecode { s with rep := r, repN := 3 } ∧
    exec (.extAuxbtn r) s = exec .xdDecode { s with rep := r, repN := 3 } ∧
    (∃ t, exec (.extPacket r) s = .next t) ∧ (∃ t, exec (.extAuxbtn r) s = .next t)

/-- RT_TRANSLATE (R240, R241, R243): the logical set under both settings of the swap, the deltas sign-extended
and the vertical one negated over the integers; nothing else changes. The masks must not overlap (log 15). -/
def Obligations.Translate : Prop :=
  ∀ s : State, s.par.buttonMasksDisjoint = true →
    let pL := s.rep.b0 &&& s.par.stL != 0
    let pR := s.rep.b0 &&& s.par.stR != 0
    let pM := s.rep.b0 &&& s.par.stM != 0
    (s.cfgSwap = false → exec .rtTranslate s = .next { s with
      ret := .translated ⟨pL, pR, pM || s.auxMid, s.auxScr⟩ s.rep.b1.toInt (-s.rep.b2.toInt) }) ∧
    (s.cfgSwap = true → exec .rtTranslate s = .next { s with
      ret := .translated ⟨pR, pL, pM || s.auxScr, s.auxMid⟩ s.rep.b1.toInt (-s.rep.b2.toInt) })

/-- R247: the handedness swap is an involution of the mapping: with the swap the result is that of the raw bits
with left and right and the two auxiliary bits exchanged, and exchanging twice gives the first mapping back. -/
def Obligations.SwapInvolution : Prop :=
  ∀ pL pR pM auxMid auxScr : Bool,
    (logicalButtons true pL pR pM auxMid auxScr).l = pR ∧ (logicalButtons true pL pR pM auxMid auxScr).r = pL ∧
    logicalButtons true pL pR pM auxMid auxScr = logicalButtons false pR pL pM auxScr auxMid ∧
    logicalButtons true pR pL pM auxScr auxMid = logicalButtons false pL pR pM auxMid auxScr

/-- RT_EDGES (R246): one event for each changed button in the order L, R, M, X, none for the others; the set
shown is stored; the same set again emits nothing. -/
def Obligations.ButtonEdges : Prop :=
  ∀ (vis : Buttons) (s : State),
    exec (.rtEdges vis) s = .next { s with
      hostOut := s.hostOut ++
        ((if vis.l = s.btnPrev.l then [] else [if vis.l then Event.press .l else .release .l]) ++
         (if vis.r = s.btnPrev.r then [] else [if vis.r then .press .r else .release .r]) ++
         (if vis.m = s.btnPrev.m then [] else [if vis.m then .press .m else .release .m]) ++
         (if vis.x = s.btnPrev.x then [] else [if vis.x then .press .x else .release .x])),
      btnPrev := vis, ret := .flag (decide (vis ≠ s.btnPrev)) } ∧
    (vis = s.btnPrev → exec (.rtEdges vis) s = .next { s with ret := .flag false })

/-! ## Scroll Emulator and Idle-Prevention Timer -/

/-- SE_STEP (R262, R267, R268): held with a primary tick, held without one, and not held. -/
def Obligations.ScrollStep : Prop :=
  ∀ (btn : Buttons) (dx dy : Int) (s : State),
    let moved := decide (dx ≠ 0 ∨ dy ≠ 0)
    let shown (e : Event) := if s.hostSuspended then s.hostOut else s.hostOut ++ [e]
    (btn.x = true → s.cfgScroll = true → tdiv dy 8 ≠ 0 → exec (.seStep btn dx dy) s = .next { s with
      scrollAcc := 0, hostOut := shown (.move 0 0 (tdiv dy 8)), ret := .flag moved }) ∧
    (btn.x = true → s.cfgScroll = true → tdiv dy 8 = 0 → tdiv (s.scrollAcc + dy) 8 = 0 →
      exec (.seStep btn dx dy) s = .next { s with scrollAcc := s.scrollAcc + dy, ret := .flag moved }) ∧
    (btn.x = true → s.cfgScroll = true → tdiv dy 8 = 0 → tdiv (s.scrollAcc + dy) 8 ≠ 0 →
      exec (.seStep btn dx dy) s = .next { s with
        scrollAcc := 0, hostOut := shown (.move 0 0 (tdiv (s.scrollAcc + dy) 8)), ret := .flag moved }) ∧
    (btn.x = false ∨ s.cfgScroll = false → moved = true → exec (.seStep btn dx dy) s = .next { s with
      scrollAcc := 0, hostOut := shown (.move dx dy 0), ret := .flag moved }) ∧
    (btn.x = false ∨ s.cfgScroll = false → moved = false →
      exec (.seStep btn dx dy) s = .next { s with scrollAcc := 0, ret := .flag moved })

/-- R264: the accumulator is in -7..7 after every SE_STEP, and from such a value a tick from the accumulator path
is 1 or -1. -/
def Obligations.ScrollBound : Prop :=
  ∀ (btn : Buttons) (dx dy : Int) (s : State), ∃ t, exec (.seStep btn dx dy) s = .next t ∧
    (-7 ≤ t.scrollAcc ∧ t.scrollAcc ≤ 7) ∧
    (-7 ≤ s.scrollAcc → s.scrollAcc ≤ 7 → btn.x = true → s.cfgScroll = true → tdiv dy 8 = 0 →
      t.hostOut = s.hostOut ∨ t.hostOut = s.hostOut ++ [.move 0 0 1] ∨ t.hostOut = s.hostOut ++ [.move 0 0 (-1)])

/-- R266, R265: 6, 6, 6, 6 with the scroll role held gives two ticks of 1 and no motion; 7 then 9 gives one. -/
def Obligations.ScrollExample : Prop :=
  ∀ (btn : Buttons) (s : State), btn.x = true → s.cfgScroll = true → s.scrollAcc = 0 → s.hostSuspended = false →
    execAll [.seStep btn 0 6, .seStep btn 0 6, .seStep btn 0 6, .seStep btn 0 6] s = .next { s with
      hostOut := s.hostOut ++ [.move 0 0 1, .move 0 0 1], ret := .flag true } ∧
    execAll [.seStep btn 0 7, .seStep btn 0 9] s = .next { s with
      hostOut := s.hostOut ++ [.move 0 0 1], ret := .flag true }

/-- IT_REAL_EVENT and IT_STEP (R271, R272). -/
def Obligations.IdleTimer : Prop :=
  ∀ s : State,
    exec (.itRealEvent true) s = .next { s with jigN := 0, tLast := s.now } ∧
    exec (.itRealEvent false) s = .next s ∧
    (s.cfgJiggle = true ∧ s.hostSuspended = false ∧ s.jigN < s.par.jigMax ∧
        s.now - s.tLast > (s.jigN + 1) * s.par.jigStep →
      exec .itStep s = .next { s with
        hostOut := s.hostOut ++ [.move s.par.jigAmp 0 0, .move (-s.par.jigAmp) 0 0], jigN := s.jigN + 1 }) ∧
    (¬(s.cfgJiggle = true ∧ s.hostSuspended = false ∧ s.jigN < s.par.jigMax ∧
        s.now - s.tLast > (s.jigN + 1) * s.par.jigStep) →
      exec .itStep s = .next s)

/-- R275, R276: after a quiet time `d > 0`, calls of IT_STEP emit as many nudges as thresholds have been passed,
at most one per call and at most JIG_MAX in all: the count is the least of the calls, JIG_MAX and
`ceil(d / JIG_STEP) - 1`; none while the host is suspended. -/
def Obligations.NudgeCount : Prop :=
  ∀ (n : Nat) (s : State),
    (s.cfgJiggle = true → s.hostSuspended = false → s.jigN = 0 → s.tLast < s.now → 0 < s.par.jigStep →
      let k := min n (min s.par.jigMax ((s.now - s.tLast + s.par.jigStep - 1) / s.par.jigStep - 1))
      execAll (List.replicate n .itStep) s = .next { s with
        jigN := k,
        hostOut := s.hostOut ++
          (List.replicate k [Event.move s.par.jigAmp 0 0, .move (-s.par.jigAmp) 0 0]).flatten }) ∧
    (s.hostSuspended = true → execAll (List.replicate n .itStep) s = .next s)

/-! ## Main Loop -/

/-- ML_ITER_BEGIN (R281). -/
def Obligations.IterationBegin : Prop :=
  ∀ s : State,
    ((s.err ≠ 0 ∨ s.sess = .idle ∨ s.sess = .desync) → exec .mlIterBegin s = .next { s with
      cfgSwap := s.inSwap, cfgJiggle := s.inJiggle, cfgScroll := s.inScroll,
      sess := if s.sess = .streaming ∨ s.sess = .remotePolling then .desync else s.sess,
      loopState := .recovering }) ∧
    (s.err = 0 → s.sess ≠ .idle → s.sess ≠ .desync → exec .mlIterBegin s = .next { s with
      cfgSwap := s.inSwap, cfgJiggle := s.inJiggle, cfgScroll := s.inScroll })

/-- Taking a link error: ML_RECOVER (R290) changes what R310 lists and nothing else; return from recovery (R312)
is `loop_state <- NORMAL`, and IT_STEP comes next (R291). The return is folded into the return point (log 19). -/
def Obligations.Recover : Prop :=
  ∀ s : State,
    exec .mlRecover s = .next { s with
      rxIe := false, rxPos := 0, rxAcc := 0x00, rxPar := true, rxPending := false,
      hClk := .low, hDat := .rel, clkPrev := false, err := 0, mb := [] } ∧
    (∀ rest, s.ctl = .k .liRecovered :: rest →
      s.loopStep = .next { s with loopState := .normal, ctl := .op .itStep :: rest })

/-- R341, R346: with the session IDLE the loop context's first four steps latch the switches, enter recovery and
stop the bus, and the full bring-up comes next. The moves count the return points (log 7). -/
def Obligations.FirstIteration : Prop :=
  ∀ s : State, s.slot = none → s.ctl = [] → s.sess = .idle →
    runMoves [.loop, .loop, .loop, .loop] s = .next { s with
      cfgSwap := s.inSwap, cfgJiggle := s.inJiggle, cfgScroll := s.inScroll, loopState := .recovering,
      rxIe := false, rxPos := 0, rxAcc := 0x00, rxPar := true, rxPending := false,
      hClk := .low, hDat := .rel, clkPrev := false, err := 0, mb := [],
      ctl := [.op .bringUp, .k .liRecovered] }

/-- The entries of the Main Loop's procedures (R280, R285, R287) and ML_HEARTBEAT's (R284): the condition under
which a heartbeat is due, and that nothing else changes otherwise; and loop_iteration after each of its parts
(R280): the recovery or the heartbeat, get_report after a heartbeat that is `ok`, process_report after a Report
got, and IT_STEP last whatever happened (R289, R291). Their bodies stand on the control stack (log 7). -/
def Obligations.MainLoopEntries : Prop :=
  ∀ s : State,
    exec .loopIteration s = .next { s with ctl := .op .mlIterBegin :: .k .liBegun :: s.ctl } ∧
    exec .processReport s = .next { s with ctl := .op .xdDecode :: .k .prDecoded :: s.ctl } ∧
    (s.par.mode = .remote → exec .getReport s = .next { s with
      repN := 0, ctl := .op (.sendCmd s.par.cmdReadData s.par.tAck) :: .k .repRequested :: s.ctl }) ∧
    (s.par.mode = .stream → exec .getReport s = .next { s with
      repN := 0, ctl := .op (.mbWait s.par.tPoll) :: .k (.repByte false) :: s.ctl }) ∧
    (s.par.hbEnable = true ∧ s.par.mode = .stream ∧ s.hbN < s.par.hbMax ∧ s.now - s.tHb ≥ s.par.hbPeriod →
      exec .mlHeartbeat s = .next { s with
        hbN := s.hbN + 1, tHb := s.now,
        ctl := .op (.sendCmd s.par.cmdStatus s.par.tAck) :: .k .hbRequested :: s.ctl }) ∧
    (¬(s.par.hbEnable = true ∧ s.par.mode = .stream ∧ s.hbN < s.par.hbMax ∧ s.now - s.tHb ≥ s.par.hbPeriod) →
      exec .mlHeartbeat s = .next { s with ret := .status true }) ∧
    (∀ rest, s.ctl = .k .liBegun :: rest →
      (s.loopState = .recovering →
        s.loopStep = .next { s with ctl := .op .mlRecover :: .op .bringUp :: .k .liRecovered :: rest }) ∧
      (s.loopState = .normal → s.loopStep = .next { s with ctl := .op .mlHeartbeat :: .k .liBeat :: rest })) ∧
    (∀ rest, s.ctl = .k .liBeat :: rest →
      (s.ret = .status true → s.loopStep = .next { s with ctl := .op .getReport :: .k .liGot :: rest }) ∧
      (s.ret = .status false → s.loopStep = .next { s with ctl := .op .itStep :: rest })) ∧
    (∀ rest, s.ctl = .k .liGot :: rest →
      (∀ r, s.ret = .report (some r) →
        s.loopStep = .next { s with ctl := .op .processReport :: .op .itStep :: rest }) ∧
      (s.ret = .report none → s.loopStep = .next { s with ctl := .op .itStep :: rest }))

/-- R284: a heartbeat that is due, against a device that answers, sends the status request once, takes and
discards exactly `N_STAT` status bytes, each within `T_STAT`, and returns `ok` with its count and time updated and
nothing else. Then each of its return points: after the request, on to the status bytes or, where the request
failed, DESYNC and `fail`; after each status byte, on to the next or `ok`, and on a time-out E_REPORT_TIMEOUT,
DESYNC and `fail`. The bound on the steps counts the return points (log 7, log 19). -/
def Obligations.HeartbeatWhole : Prop :=
  (∀ (v : Byte) (n : Nat) (s : State), s.ctl = [.op .mlHeartbeat] → 2 * s.par.nStat + 3 ≤ n →
    s.par.hbEnable = true → s.par.mode = .stream → s.hbN < s.par.hbMax → s.par.hbPeriod ≤ s.now - s.tHb →
    linkCalls v n s = (.send s.par.cmdStatus s.par.tAck :: List.replicate s.par.nStat (.take s.par.tStat), { s with
      hbN := s.hbN + 1, tHb := s.now, ctl := [], ret := .status true })) ∧
  (∀ (v : Byte) (rest : List Task) (s : State), s.ctl = .k .hbRequested :: rest →
    (s.ret = .reply none → s.loopStep = .next { s with sess := .desync, ret := .status false, ctl := rest }) ∧
    (s.ret = .reply (some v) → s.par.nStat = 0 → s.loopStep = .next { s with ret := .status true, ctl := rest }) ∧
    (∀ k, s.ret = .reply (some v) → s.par.nStat = k + 1 →
      s.loopStep = .next { s with ctl := .op (.mbWait s.par.tStat) :: .k (.hbByte k) :: rest })) ∧
  (∀ (v : Byte) (left : Nat) (rest : List Task) (s : State), s.ctl = .k (.hbByte left) :: rest →
    (s.ret = .byte none →
      s.loopStep = .next { s with err := 0x06, sess := .desync, ret := .status false, ctl := rest }) ∧
    (s.ret = .byte (some v) → left = 0 → s.loopStep = .next { s with ret := .status true, ctl := rest }) ∧
    (∀ k, s.ret = .byte (some v) → left = k + 1 →
      s.loopStep = .next { s with ctl := .op (.mbWait s.par.tStat) :: .k (.hbByte k) :: rest }))

/-- ML_CHECK (R288): either overflow bit is a link error; the Report's other contents are not used. -/
def Obligations.OverflowCheck : Prop :=
  ∀ s : State,
    (s.rep.b0 &&& s.par.ovfMask ≠ 0 → exec .mlCheck s = .next { s with
      err := 0x07, sess := .desync, ret := .checked true }) ∧
    (s.rep.b0 &&& s.par.ovfMask = 0 → exec .mlCheck s = .next { s with ret := .checked false })

/-- R285, R76: get_report takes three waiting bytes as status, delta-X and delta-Y in arrival order, and no other
byte: in Streaming mode from its entry, in Remote-Polling mode from the return of its request, whose response byte
`v` is not of the Report. The moves count the return points (log 7). -/
def Obligations.ReportTaken : Prop :=
  ∀ (v b0 b1 b2 : Byte) (ms : List Byte) (rest : List Task) (s : State), s.slot = none →
    s.mb = b0 :: b1 :: b2 :: ms →
    (s.ctl = .op .getReport :: rest ∧ s.par.mode = .stream ∨
      s.ctl = .k .repRequested :: rest ∧ s.ret = .reply (some v) ∧ s.repN = 0) →
    runMoves (List.replicate 10 .loop) s = .next { s with
      mb := ms, rep := ⟨b0, b1, b2⟩, repN := 3, ret := .report (some ⟨b0, b1, b2⟩), ctl := rest }

/-- R285, R286: in Streaming mode a time-out before the first byte of a Report is no error; one after the first
or the second byte is E_REPORT_TIMEOUT, and the partial Report is discarded. In Remote-Polling mode a request that
fails ends get_report in DESYNC, with the error its send recorded, and every time-out after the request is
E_REPORT_TIMEOUT, also one before the first byte. The last clause says it of the return point of every wait:
`polled` says that a request was sent. The moves count the return points (log 7, log 19). -/
def Obligations.ReportTimeouts : Prop :=
  ∀ (v b0 b1 : Byte) (wait : Nat) (rest : List Task) (s : State), s.slot = none →
    (s.ctl = .op .getReport :: rest → s.par.mode = .stream →
      (s.mb = [] → s.par.tPoll ≤ wait →
        runMoves [.loop, .loop, .clock wait, .loop, .loop] s = .next { s with
          repN := 0, now := s.now + wait, ret := .report none, ctl := rest }) ∧
      (s.mb = [b0] → s.par.tRep ≤ wait →
        runMoves [.loop, .loop, .loop, .loop, .loop, .clock wait, .loop, .loop] s = .next { s with
          mb := [], rep := { s.rep with b0 := b0 }, repN := 1, now := s.now + wait, err := 0x06, sess := .desync,
          ret := .report none, ctl := rest }) ∧
      (s.mb = [b0, b1] → s.par.tRep ≤ wait →
        runMoves (List.replicate 8 .loop ++ [.clock wait, .loop, .loop]) s = .next { s with
          mb := [], rep := { s.rep with b0 := b0, b1 := b1 }, repN := 2, now := s.now + wait, err := 0x06,
          sess := .desync, ret := .report none, ctl := rest })) ∧
    (s.ctl = .k .repRequested :: rest →
      (s.ret = .reply none → s.loopStep = .next { s with sess := .desync, ret := .report none, ctl := rest }) ∧
      (s.ret = .reply (some v) → s.mb = [] → s.par.tRep ≤ wait →
        runMoves [.loop, .loop, .clock wait, .loop, .loop] s = .next { s with
          now := s.now + wait, err := 0x06, sess := .desync, ret := .report none, ctl := rest })) ∧
    (∀ polled, s.ctl = .k (.repByte polled) :: rest → s.ret = .byte none →
      (polled = true ∨ s.repN ≠ 0 →
        s.loopStep = .next { s with err := 0x06, sess := .desync, ret := .report none, ctl := rest }) ∧
      (polled = false → s.repN = 0 → s.loopStep = .next { s with ret := .report none, ctl := rest }))

/-- R287, R249, R271: the whole processing of a motion Report. Without scroll emulation: at most one Move, then
the button events in their order; the timer restarts exactly when something moved or changed. With it: the
accumulator and the events are those of SE_STEP on the translated Report, whether X is held or not, and X is hidden
from the host: the set compared, shown and stored has X released (R244). The moves count the return points
(log 7). -/
def Obligations.MotionProcessed : Prop :=
  ∀ (rest : List Task) (s : State), s.slot = none → s.ctl = .op .processReport :: rest →
    isExt s.par s.rep = false → s.rep.b0 &&& s.par.ovfMask = 0 → s.par.buttonMasksDisjoint = true →
    let btn := logicalButtons s.cfgSwap (s.rep.b0 &&& s.par.stL != 0) (s.rep.b0 &&& s.par.stR != 0)
      (s.rep.b0 &&& s.par.stM != 0) s.auxMid s.auxScr
    let dx := s.rep.b1.toInt
    let dy := -s.rep.b2.toInt
    let active (vis : Buttons) := decide (dx ≠ 0 ∨ dy ≠ 0 ∨ vis ≠ s.btnPrev)
    (s.cfgScroll = false → runMoves (List.replicate 12 .loop) s = .next { s with
      scrollAcc := 0,
      hostOut := s.hostOut ++
        (if (dx ≠ 0 ∨ dy ≠ 0) ∧ s.hostSuspended = false then [.move dx dy 0] else []) ++ edgeEvents s.btnPrev btn,
      btnPrev := btn, jigN := if active btn then 0 else s.jigN, tLast := if active btn then s.now else s.tLast,
      ret := .flag (decide (btn ≠ s.btnPrev)), ctl := rest }) ∧
    (s.cfgScroll = true → ∃ u, exec (.seStep btn dx dy) s = .next u ∧
      let vis : Buttons := ⟨btn.l, btn.r, btn.m, false⟩
      runMoves (List.replicate 12 .loop) s = .next { s with
        scrollAcc := u.scrollAcc, hostOut := u.hostOut ++ edgeEvents s.btnPrev vis,
        btnPrev := vis, jigN := if active vis then 0 else s.jigN, tLast := if active vis then s.now else s.tLast,
        ret := .flag (decide (vis ≠ s.btnPrev)), ctl := rest })

/-- R230, R233, R288, R351: processing an extended packet ends with the decoder, and processing a Report with an
overflow bit ends with the check: no event, no translation, no scroll step in either. The moves count the return
points (log 7). -/
def Obligations.ReportSuppressed : Prop :=
  ∀ (rest : List Task) (s : State), s.slot = none → s.ctl = .op .processReport :: rest →
    (isExt s.par s.rep = true → runMoves [.loop, .loop, .loop] s = .next { s with
      auxScr := if isAuxbtn s.par s.rep then bit s.rep.b2 s.par.auxScrBit.val else s.auxScr,
      auxMid := if isAuxbtn s.par s.rep then bit s.rep.b2 s.par.auxMidBit.val else s.auxMid,
      ret := .decoded true, ctl := rest }) ∧
    (isExt s.par s.rep = false → s.rep.b0 &&& s.par.ovfMask ≠ 0 →
      runMoves [.loop, .loop, .loop, .loop, .loop] s = .next { s with
        err := 0x07, sess := .desync, ret := .checked true, ctl := rest })
end

