-- ==== Sys2Proof/Laws/State.lean ====
section
/-! SUPPORT. One lemma per field per update: what each named operation on the state does to each field, true by computation. -/

namespace Sys2Proof.Machine

open Sys2Proof Sys2Proof.Config

variable (s : State)

@[simp] theorem edgeDetect_hClk : s.edgeDetect.hClk = s.hClk := rfl
@[simp] theorem edgeDetect_hDat : s.edgeDetect.hDat = s.hDat := rfl
@[simp] theorem edgeDetect_dClk : s.edgeDetect.dClk = s.dClk := rfl
@[simp] theorem edgeDetect_dDat : s.edgeDetect.dDat = s.dDat := rfl
@[simp] theorem edgeDetect_clkPrev : s.edgeDetect.clkPrev = s.clk := rfl
@[simp] theorem edgeDetect_rxPos : s.edgeDetect.rxPos = s.rxPos := rfl
@[simp] theorem edgeDetect_rxAcc : s.edgeDetect.rxAcc = s.rxAcc := rfl
@[simp] theorem edgeDetect_rxPar : s.edgeDetect.rxPar = s.rxPar := rfl
@[simp] theorem edgeDetect_rxIe : s.edgeDetect.rxIe = s.rxIe := rfl
@[simp] theorem edgeDetect_rxPending : s.edgeDetect.rxPending = (s.rxPending || (s.clkPrev && !s.clk && s.rxIe)) := rfl
@[simp] theorem edgeDetect_err : s.edgeDetect.err = s.err := rfl
@[simp] theorem edgeDetect_mb : s.edgeDetect.mb = s.mb := rfl
@[simp] theorem edgeDetect_txPhase : s.edgeDetect.txPhase = s.txPhase := rfl
@[simp] theorem edgeDetect_txByte : s.edgeDetect.txByte = s.txByte := rfl
@[simp] theorem edgeDetect_txI : s.edgeDetect.txI = s.txI := rfl
@[simp] theorem edgeDetect_txDeadline : s.edgeDetect.txDeadline = s.txDeadline := rfl
@[simp] theorem edgeDetect_sess : s.edgeDetect.sess = s.sess := rfl
@[simp] theorem edgeDetect_ssStep : s.edgeDetect.ssStep = s.ssStep := rfl
@[simp] theorem edgeDetect_auxMid : s.edgeDetect.auxMid = s.auxMid := rfl
@[simp] theorem edgeDetect_auxScr : s.edgeDetect.auxScr = s.auxScr := rfl
@[simp] theorem edgeDetect_btnPrev : s.edgeDetect.btnPrev = s.btnPrev := rfl
@[simp] theorem edgeDetect_scrollAcc : s.edgeDetect.scrollAcc = s.scrollAcc := rfl
@[simp] theorem edgeDetect_tLast : s.edgeDetect.tLast = s.tLast := rfl
@[simp] theorem edgeDetect_jigN : s.edgeDetect.jigN = s.jigN := rfl
@[simp] theorem edgeDetect_loopState : s.edgeDetect.loopState = s.loopState := rfl
@[simp] theorem edgeDetect_cfgSwap : s.edgeDetect.cfgSwap = s.cfgSwap := rfl
@[simp] theorem edgeDetect_cfgJiggle : s.edgeDetect.cfgJiggle = s.cfgJiggle := rfl
@[simp] theorem edgeDetect_cfgScroll : s.edgeDetect.cfgScroll = s.cfgScroll := rfl
@[simp] theorem edgeDetect_rep : s.edgeDetect.rep = s.rep := rfl
@[simp] theorem edgeDetect_repN : s.edgeDetect.repN = s.repN := rfl
@[simp] theorem edgeDetect_hbN : s.edgeDetect.hbN = s.hbN := rfl
@[simp] theorem edgeDetect_tHb : s.edgeDetect.tHb = s.tHb := rfl
@[simp] theorem edgeDetect_now : s.edgeDetect.now = s.now := rfl
@[simp] theorem edgeDetect_inSwap : s.edgeDetect.inSwap = s.inSwap := rfl
@[simp] theorem edgeDetect_inJiggle : s.edgeDetect.inJiggle = s.inJiggle := rfl
@[simp] theorem edgeDetect_inScroll : s.edgeDetect.inScroll = s.inScroll := rfl
@[simp] theorem edgeDetect_hostSuspended : s.edgeDetect.hostSuspended = s.hostSuspended := rfl
@[simp] theorem edgeDetect_hostOut : s.edgeDetect.hostOut = s.hostOut := rfl
@[simp] theorem edgeDetect_ctl : s.edgeDetect.ctl = s.ctl := rfl
@[simp] theorem edgeDetect_ret : s.edgeDetect.ret = s.ret := rfl
@[simp] theorem edgeDetect_par : s.edgeDetect.par = s.par := rfl
@[simp] theorem edgeDetect_slot : s.edgeDetect.slot = s.slot := rfl
@[simp] theorem edgeDetect_sched : s.edgeDetect.sched = s.sched := rfl
@[simp] theorem edgeDetect_nFree : s.edgeDetect.nFree = s.nFree := rfl

@[simp] theorem drvClk_hClk (x : Drive) : (s.drvClk x).hClk = x := rfl
@[simp] theorem drvClk_hDat (x : Drive) : (s.drvClk x).hDat = s.hDat := rfl
@[simp] theorem drvClk_dClk (x : Drive) : (s.drvClk x).dClk = s.dClk := rfl
@[simp] theorem drvClk_dDat (x : Drive) : (s.drvClk x).dDat = s.dDat := rfl
@[simp] theorem drvClk_clkPrev (x : Drive) : (s.drvClk x).clkPrev = wiredAnd x s.dClk := rfl
@[simp] theorem drvClk_rxPos (x : Drive) : (s.drvClk x).rxPos = s.rxPos := rfl
@[simp] theorem drvClk_rxAcc (x : Drive) : (s.drvClk x).rxAcc = s.rxAcc := rfl
@[simp] theorem drvClk_rxPar (x : Drive) : (s.drvClk x).rxPar = s.rxPar := rfl
@[simp] theorem drvClk_rxIe (x : Drive) : (s.drvClk x).rxIe = s.rxIe := rfl
@[simp] theorem drvClk_rxPending (x : Drive) : (s.drvClk x).rxPending = (s.rxPending || (s.clkPrev && !wiredAnd x s.dClk && s.rxIe)) := rfl
@[simp] theorem drvClk_err (x : Drive) : (s.drvClk x).err = s.err := rfl
@[simp] theorem drvClk_mb (x : Drive) : (s.drvClk x).mb = s.mb := rfl
@[simp] theorem drvClk_txPhase (x : Drive) : (s.drvClk x).txPhase = s.txPhase := rfl
@[simp] theorem drvClk_txByte (x : Drive) : (s.drvClk x).txByte = s.txByte := rfl
@[simp] theorem drvClk_txI (x : Drive) : (s.drvClk x).txI = s.txI := rfl
@[simp] theorem drvClk_txDeadline (x : Drive) : (s.drvClk x).txDeadline = s.txDeadline := rfl
@[simp] theorem drvClk_sess (x : Drive) : (s.drvClk x).sess = s.sess := rfl
@[simp] theorem drvClk_ssStep (x : Drive) : (s.drvClk x).ssStep = s.ssStep := rfl
@[simp] theorem drvClk_auxMid (x : Drive) : (s.drvClk x).auxMid = s.auxMid := rfl
@[simp] theorem drvClk_auxScr (x : Drive) : (s.drvClk x).auxScr = s.auxScr := rfl
@[simp] theorem drvClk_btnPrev (x : Drive) : (s.drvClk x).btnPrev = s.btnPrev := rfl
@[simp] theorem drvClk_scrollAcc (x : Drive) : (s.drvClk x).scrollAcc = s.scrollAcc := rfl
@[simp] theorem drvClk_tLast (x : Drive) : (s.drvClk x).tLast = s.tLast := rfl
@[simp] theorem drvClk_jigN (x : Drive) : (s.drvClk x).jigN = s.jigN := rfl
@[simp] theorem drvClk_loopState (x : Drive) : (s.drvClk x).loopState = s.loopState := rfl
@[simp] theorem drvClk_cfgSwap (x : Drive) : (s.drvClk x).cfgSwap = s.cfgSwap := rfl
@[simp] theorem drvClk_cfgJiggle (x : Drive) : (s.drvClk x).cfgJiggle = s.cfgJiggle := rfl
@[simp] theorem drvClk_cfgScroll (x : Drive) : (s.drvClk x).cfgScroll = s.cfgScroll := rfl
@[simp] theorem drvClk_rep (x : Drive) : (s.drvClk x).rep = s.rep := rfl
@[simp] theorem drvClk_repN (x : Drive) : (s.drvClk x).repN = s.repN := rfl
@[simp] theorem drvClk_hbN (x : Drive) : (s.drvClk x).hbN = s.hbN := rfl
@[simp] theorem drvClk_tHb (x : Drive) : (s.drvClk x).tHb = s.tHb := rfl
@[simp] theorem drvClk_now (x : Drive) : (s.drvClk x).now = s.now := rfl
@[simp] theorem drvClk_inSwap (x : Drive) : (s.drvClk x).inSwap = s.inSwap := rfl
@[simp] theorem drvClk_inJiggle (x : Drive) : (s.drvClk x).inJiggle = s.inJiggle := rfl
@[simp] theorem drvClk_inScroll (x : Drive) : (s.drvClk x).inScroll = s.inScroll := rfl
@[simp] theorem drvClk_hostSuspended (x : Drive) : (s.drvClk x).hostSuspended = s.hostSuspended := rfl
@[simp] theorem drvClk_hostOut (x : Drive) : (s.drvClk x).hostOut = s.hostOut := rfl
@[simp] theorem drvClk_ctl (x : Drive) : (s.drvClk x).ctl = s.ctl := rfl
@[simp] theorem drvClk_ret (x : Drive) : (s.drvClk x).ret = s.ret := rfl
@[simp] theorem drvClk_par (x : Drive) : (s.drvClk x).par = s.par := rfl
@[simp] theorem drvClk_slot (x : Drive) : (s.drvClk x).slot = s.slot := rfl
@[simp] theorem drvClk_sched (x : Drive) : (s.drvClk x).sched = s.sched := rfl
@[simp] theorem drvClk_nFree (x : Drive) : (s.drvClk x).nFree = s.nFree := rfl

@[simp] theorem drvDat_hClk (x : Drive) : (s.drvDat x).hClk = s.hClk := rfl
@[simp] theorem drvDat_hDat (x : Drive) : (s.drvDat x).hDat = x := rfl
@[simp] theorem drvDat_dClk (x : Drive) : (s.drvDat x).dClk = s.dClk := rfl
@[simp] theorem drvDat_dDat (x : Drive) : (s.drvDat x).dDat = s.dDat := rfl
@[simp] theorem drvDat_clkPrev (x : Drive) : (s.drvDat x).clkPrev = s.clkPrev := rfl
@[simp] theorem drvDat_rxPos (x : Drive) : (s.drvDat x).rxPos = s.rxPos := rfl
@[simp] theorem drvDat_rxAcc (x : Drive) : (s.drvDat x).rxAcc = s.rxAcc := rfl
@[simp] theorem drvDat_rxPar (x : Drive) : (s.drvDat x).rxPar = s.rxPar := rfl
@[simp] theorem drvDat_rxIe (x : Drive) : (s.drvDat x).rxIe = s.rxIe := rfl
@[simp] theorem drvDat_rxPending (x : Drive) : (s.drvDat x).rxPending = s.rxPending := rfl
@[simp] theorem drvDat_err (x : Drive) : (s.drvDat x).err = s.err := rfl
@[simp] theorem drvDat_mb (x : Drive) : (s.drvDat x).mb = s.mb := rfl
@[simp] theorem drvDat_txPhase (x : Drive) : (s.drvDat x).txPhase = s.txPhase := rfl
@[simp] theorem drvDat_txByte (x : Drive) : (s.drvDat x).txByte = s.txByte := rfl
@[simp] theorem drvDat_txI (x : Drive) : (s.drvDat x).txI = s.txI := rfl
@[simp] theorem drvDat_txDeadline (x : Drive) : (s.drvDat x).txDeadline = s.txDeadline := rfl
@[simp] theorem drvDat_sess (x : Drive) : (s.drvDat x).sess = s.sess := rfl
@[simp] theorem drvDat_ssStep (x : Drive) : (s.drvDat x).ssStep = s.ssStep := rfl
@[simp] theorem drvDat_auxMid (x : Drive) : (s.drvDat x).auxMid = s.auxMid := rfl
@[simp] theorem drvDat_auxScr (x : Drive) : (s.drvDat x).auxScr = s.auxScr := rfl
@[simp] theorem drvDat_btnPrev (x : Drive) : (s.drvDat x).btnPrev = s.btnPrev := rfl
@[simp] theorem drvDat_scrollAcc (x : Drive) : (s.drvDat x).scrollAcc = s.scrollAcc := rfl
@[simp] theorem drvDat_tLast (x : Drive) : (s.drvDat x).tLast = s.tLast := rfl
@[simp] theorem drvDat_jigN (x : Drive) : (s.drvDat x).jigN = s.jigN := rfl
@[simp] theorem drvDat_loopState (x : Drive) : (s.drvDat x).loopState = s.loopState := rfl
@[simp] theorem drvDat_cfgSwap (x : Drive) : (s.drvDat x).cfgSwap = s.cfgSwap := rfl
@[simp] theorem drvDat_cfgJiggle (x : Drive) : (s.drvDat x).cfgJiggle = s.cfgJiggle := rfl
@[simp] theorem drvDat_cfgScroll (x : Drive) : (s.drvDat x).cfgScroll = s.cfgScroll := rfl
@[simp] theorem drvDat_rep (x : Drive) : (s.drvDat x).rep = s.rep := rfl
@[simp] theorem drvDat_repN (x : Drive) : (s.drvDat x).repN = s.repN := rfl
@[simp] theorem drvDat_hbN (x : Drive) : (s.drvDat x).hbN = s.hbN := rfl
@[simp] theorem drvDat_tHb (x : Drive) : (s.drvDat x).tHb = s.tHb := rfl
@[simp] theorem drvDat_now (x : Drive) : (s.drvDat x).now = s.now := rfl
@[simp] theorem drvDat_inSwap (x : Drive) : (s.drvDat x).inSwap = s.inSwap := rfl
@[simp] theorem drvDat_inJiggle (x : Drive) : (s.drvDat x).inJiggle = s.inJiggle := rfl
@[simp] theorem drvDat_inScroll (x : Drive) : (s.drvDat x).inScroll = s.inScroll := rfl
@[simp] theorem drvDat_hostSuspended (x : Drive) : (s.drvDat x).hostSuspended = s.hostSuspended := rfl
@[simp] theorem drvDat_hostOut (x : Drive) : (s.drvDat x).hostOut = s.hostOut := rfl
@[simp] theorem drvDat_ctl (x : Drive) : (s.drvDat x).ctl = s.ctl := rfl
@[simp] theorem drvDat_ret (x : Drive) : (s.drvDat x).ret = s.ret := rfl
@[simp] theorem drvDat_par (x : Drive) : (s.drvDat x).par = s.par := rfl
@[simp] theorem drvDat_slot (x : Drive) : (s.drvDat x).slot = s.slot := rfl
@[simp] theorem drvDat_sched (x : Drive) : (s.drvDat x).sched = s.sched := rfl
@[simp] theorem drvDat_nFree (x : Drive) : (s.drvDat x).nFree = s.nFree := rfl

@[simp] theorem devClk_hClk (x : Drive) : (s.devClk x).hClk = s.hClk := rfl
@[simp] theorem devClk_hDat (x : Drive) : (s.devClk x).hDat = s.hDat := rfl
@[simp] theorem devClk_dClk (x : Drive) : (s.devClk x).dClk = x := rfl
@[simp] theorem devClk_dDat (x : Drive) : (s.devClk x).dDat = s.dDat := rfl
@[simp] theorem devClk_clkPrev (x : Drive) : (s.devClk x).clkPrev = wiredAnd s.hClk x := rfl
@[simp] theorem devClk_rxPos (x : Drive) : (s.devClk x).rxPos = s.rxPos := rfl
@[simp] theorem devClk_rxAcc (x : Drive) : (s.devClk x).rxAcc = s.rxAcc := rfl
@[simp] theorem devClk_rxPar (x : Drive) : (s.devClk x).rxPar = s.rxPar := rfl
@[simp] theorem devClk_rxIe (x : Drive) : (s.devClk x).rxIe = s.rxIe := rfl
@[simp] theorem devClk_rxPending (x : Drive) : (s.devClk x).rxPending = (s.rxPending || (s.clkPrev && !wiredAnd s.hClk x && s.rxIe)) := rfl
@[simp] theorem devClk_err (x : Drive) : (s.devClk x).err = s.err := rfl
@[simp] theorem devClk_mb (x : Drive) : (s.devClk x).mb = s.mb := rfl
@[simp] theorem devClk_txPhase (x : Drive) : (s.devClk x).txPhase = s.txPhase := rfl
@[simp] theorem devClk_txByte (x : Drive) : (s.devClk x).txByte = s.txByte := rfl
@[simp] theorem devClk_txI (x : Drive) : (s.devClk x).txI = s.txI := rfl
@[simp] theorem devClk_txDeadline (x : Drive) : (s.devClk x).txDeadline = s.txDeadline := rfl
@[simp] theorem devClk_sess (x : Drive) : (s.devClk x).sess = s.sess := rfl
@[simp] theorem devClk_ssStep (x : Drive) : (s.devClk x).ssStep = s.ssStep := rfl
@[simp] theorem devClk_auxMid (x : Drive) : (s.devClk x).auxMid = s.auxMid := rfl
@[simp] theorem devClk_auxScr (x : Drive) : (s.devClk x).auxScr = s.auxScr := rfl
@[simp] theorem devClk_btnPrev (x : Drive) : (s.devClk x).btnPrev = s.btnPrev := rfl
@[simp] theorem devClk_scrollAcc (x : Drive) : (s.devClk x).scrollAcc = s.scrollAcc := rfl
@[simp] theorem devClk_tLast (x : Drive) : (s.devClk x).tLast = s.tLast := rfl
@[simp] theorem devClk_jigN (x : Drive) : (s.devClk x).jigN = s.jigN := rfl
@[simp] theorem devClk_loopState (x : Drive) : (s.devClk x).loopState = s.loopState := rfl
@[simp] theorem devClk_cfgSwap (x : Drive) : (s.devClk x).cfgSwap = s.cfgSwap := rfl
@[simp] theorem devClk_cfgJiggle (x : Drive) : (s.devClk x).cfgJiggle = s.cfgJiggle := rfl
@[simp] theorem devClk_cfgScroll (x : Drive) : (s.devClk x).cfgScroll = s.cfgScroll := rfl
@[simp] theorem devClk_rep (x : Drive) : (s.devClk x).rep = s.rep := rfl
@[simp] theorem devClk_repN (x : Drive) : (s.devClk x).repN = s.repN := rfl
@[simp] theorem devClk_hbN (x : Drive) : (s.devClk x).hbN = s.hbN := rfl
@[simp] theorem devClk_tHb (x : Drive) : (s.devClk x).tHb = s.tHb := rfl
@[simp] theorem devClk_now (x : Drive) : (s.devClk x).now = s.now := rfl
@[simp] theorem devClk_inSwap (x : Drive) : (s.devClk x).inSwap = s.inSwap := rfl
@[simp] theorem devClk_inJiggle (x : Drive) : (s.devClk x).inJiggle = s.inJiggle := rfl
@[simp] theorem devClk_inScroll (x : Drive) : (s.devClk x).inScroll = s.inScroll := rfl
@[simp] theorem devClk_hostSuspended (x : Drive) : (s.devClk x).hostSuspended = s.hostSuspended := rfl
@[simp] theorem devClk_hostOut (x : Drive) : (s.devClk x).hostOut = s.hostOut := rfl
@[simp] theorem devClk_ctl (x : Drive) : (s.devClk x).ctl = s.ctl := rfl
@[simp] theorem devClk_ret (x : Drive) : (s.devClk x).ret = s.ret := rfl
@[simp] theorem devClk_par (x : Drive) : (s.devClk x).par = s.par := rfl
@[simp] theorem devClk_slot (x : Drive) : (s.devClk x).slot = s.slot := rfl
@[simp] theorem devClk_sched (x : Drive) : (s.devClk x).sched = s.sched := rfl
@[simp] theorem devClk_nFree (x : Drive) : (s.devClk x).nFree = s.nFree := rfl

@[simp] theorem devDat_hClk (x : Drive) : (s.devDat x).hClk = s.hClk := rfl
@[simp] theorem devDat_hDat (x : Drive) : (s.devDat x).hDat = s.hDat := rfl
@[simp] theorem devDat_dClk (x : Drive) : (s.devDat x).dClk = s.dClk := rfl
@[simp] theorem devDat_dDat (x : Drive) : (s.devDat x).dDat = x := rfl
@[simp] theorem devDat_clkPrev (x : Drive) : (s.devDat x).clkPrev = s.clkPrev := rfl
@[simp] theorem devDat_rxPos (x : Drive) : (s.devDat x).rxPos = s.rxPos := rfl
@[simp] theorem devDat_rxAcc (x : Drive) : (s.devDat x).rxAcc = s.rxAcc := rfl
@[simp] theorem devDat_rxPar (x : Drive) : (s.devDat x).rxPar = s.rxPar := rfl
@[simp] theorem devDat_rxIe (x : Drive) : (s.devDat x).rxIe = s.rxIe := rfl
@[simp] theorem devDat_rxPending (x : Drive) : (s.devDat x).rxPending = s.rxPending := rfl
@[simp] theorem devDat_err (x : Drive) : (s.devDat x).err = s.err := rfl
@[simp] theorem devDat_mb (x : Drive) : (s.devDat x).mb = s.mb := rfl
@[simp] theorem devDat_txPhase (x : Drive) : (s.devDat x).txPhase = s.txPhase := rfl
@[simp] theorem devDat_txByte (x : Drive) : (s.devDat x).txByte = s.txByte := rfl
@[simp] theorem devDat_txI (x : Drive) : (s.devDat x).txI = s.txI := rfl
@[simp] theorem devDat_txDeadline (x : Drive) : (s.devDat x).txDeadline = s.txDeadline := rfl
@[simp] theorem devDat_sess (x : Drive) : (s.devDat x).sess = s.sess := rfl
@[simp] theorem devDat_ssStep (x : Drive) : (s.devDat x).ssStep = s.ssStep := rfl
@[simp] theorem devDat_auxMid (x : Drive) : (s.devDat x).auxMid = s.auxMid := rfl
@[simp] theorem devDat_auxScr (x : Drive) : (s.devDat x).auxScr = s.auxScr := rfl
@[simp] theorem devDat_btnPrev (x : Drive) : (s.devDat x).btnPrev = s.btnPrev := rfl
@[simp] theorem devDat_scrollAcc (x : Drive) : (s.devDat x).scrollAcc = s.scrollAcc := rfl
@[simp] theorem devDat_tLast (x : Drive) : (s.devDat x).tLast = s.tLast := rfl
@[simp] theorem devDat_jigN (x : Drive) : (s.devDat x).jigN = s.jigN := rfl
@[simp] theorem devDat_loopState (x : Drive) : (s.devDat x).loopState = s.loopState := rfl
@[simp] theorem devDat_cfgSwap (x : Drive) : (s.devDat x).cfgSwap = s.cfgSwap := rfl
@[simp] theorem devDat_cfgJiggle (x : Drive) : (s.devDat x).cfgJiggle = s.cfgJiggle := rfl
@[simp] theorem devDat_cfgScroll (x : Drive) : (s.devDat x).cfgScroll = s.cfgScroll := rfl
@[simp] theorem devDat_rep (x : Drive) : (s.devDat x).rep = s.rep := rfl
@[simp] theorem devDat_repN (x : Drive) : (s.devDat x).repN = s.repN := rfl
@[simp] theorem devDat_hbN (x : Drive) : (s.devDat x).hbN = s.hbN := rfl
@[simp] theorem devDat_tHb (x : Drive) : (s.devDat x).tHb = s.tHb := rfl
@[simp] theorem devDat_now (x : Drive) : (s.devDat x).now = s.now := rfl
@[simp] theorem devDat_inSwap (x : Drive) : (s.devDat x).inSwap = s.inSwap := rfl
@[simp] theorem devDat_inJiggle (x : Drive) : (s.devDat x).inJiggle = s.inJiggle := rfl
@[simp] theorem devDat_inScroll (x : Drive) : (s.devDat x).inScroll = s.inScroll := rfl
@[simp] theorem devDat_hostSuspended (x : Drive) : (s.devDat x).hostSuspended = s.hostSuspended := rfl
@[simp] theorem devDat_hostOut (x : Drive) : (s.devDat x).hostOut = s.hostOut := rfl
@[simp] theorem devDat_ctl (x : Drive) : (s.devDat x).ctl = s.ctl := rfl
@[simp] theorem devDat_ret (x : Drive) : (s.devDat x).ret = s.ret := rfl
@[simp] theorem devDat_par (x : Drive) : (s.devDat x).par = s.par := rfl
@[simp] theorem devDat_slot (x : Drive) : (s.devDat x).slot = s.slot := rfl
@[simp] theorem devDat_sched (x : Drive) : (s.devDat x).sched = s.sched := rfl
@[simp] theorem devDat_nFree (x : Drive) : (s.devDat x).nFree = s.nFree := rfl

@[simp] theorem busStop_hClk : s.busStop.hClk = .low := rfl
@[simp] theorem busStop_hDat : s.busStop.hDat = .rel := rfl
@[simp] theorem busStop_dClk : s.busStop.dClk = s.dClk := rfl
@[simp] theorem busStop_dDat : s.busStop.dDat = s.dDat := rfl
@[simp] theorem busStop_clkPrev : s.busStop.clkPrev = wiredAnd .low s.dClk := rfl
@[simp] theorem busStop_rxPos : s.busStop.rxPos = s.rxPos := rfl
@[simp] theorem busStop_rxAcc : s.busStop.rxAcc = s.rxAcc := rfl
@[simp] theorem busStop_rxPar : s.busStop.rxPar = s.rxPar := rfl
@[simp] theorem busStop_rxIe : s.busStop.rxIe = s.rxIe := rfl
@[simp] theorem busStop_rxPending : s.busStop.rxPending = (s.rxPending || (s.clkPrev && !wiredAnd .low s.dClk && s.rxIe)) := rfl
@[simp] theorem busStop_err : s.busStop.err = s.err := rfl
@[simp] theorem busStop_mb : s.busStop.mb = s.mb := rfl
@[simp] theorem busStop_txPhase : s.busStop.txPhase = s.txPhase := rfl
@[simp] theorem busStop_txByte : s.busStop.txByte = s.txByte := rfl
@[simp] theorem busStop_txI : s.busStop.txI = s.txI := rfl
@[simp] theorem busStop_txDeadline : s.busStop.txDeadline = s.txDeadline := rfl
@[simp] theorem busStop_sess : s.busStop.sess = s.sess := rfl
@[simp] theorem busStop_ssStep : s.busStop.ssStep = s.ssStep := rfl
@[simp] theorem busStop_auxMid : s.busStop.auxMid = s.auxMid := rfl
@[simp] theorem busStop_auxScr : s.busStop.auxScr = s.auxScr := rfl
@[simp] theorem busStop_btnPrev : s.busStop.btnPrev = s.btnPrev := rfl
@[simp] theorem busStop_scrollAcc : s.busStop.scrollAcc = s.scrollAcc := rfl
@[simp] theorem busStop_tLast : s.busStop.tLast = s.tLast := rfl
@[simp] theorem busStop_jigN : s.busStop.jigN = s.jigN := rfl
@[simp] theorem busStop_loopState : s.busStop.loopState = s.loopState := rfl
@[simp] theorem busStop_cfgSwap : s.busStop.cfgSwap = s.cfgSwap := rfl
@[simp] theorem busStop_cfgJiggle : s.busStop.cfgJiggle = s.cfgJiggle := rfl
@[simp] theorem busStop_cfgScroll : s.busStop.cfgScroll = s.cfgScroll := rfl
@[simp] theorem busStop_rep : s.busStop.rep = s.rep := rfl
@[simp] theorem busStop_repN : s.busStop.repN = s.repN := rfl
@[simp] theorem busStop_hbN : s.busStop.hbN = s.hbN := rfl
@[simp] theorem busStop_tHb : s.busStop.tHb = s.tHb := rfl
@[simp] theorem busStop_now : s.busStop.now = s.now := rfl
@[simp] theorem busStop_inSwap : s.busStop.inSwap = s.inSwap := rfl
@[simp] theorem busStop_inJiggle : s.busStop.inJiggle = s.inJiggle := rfl
@[simp] theorem busStop_inScroll : s.busStop.inScroll = s.inScroll := rfl
@[simp] theorem busStop_hostSuspended : s.busStop.hostSuspended = s.hostSuspended := rfl
@[simp] theorem busStop_hostOut : s.busStop.hostOut = s.hostOut := rfl
@[simp] theorem busStop_ctl : s.busStop.ctl = s.ctl := rfl
@[simp] theorem busStop_ret : s.busStop.ret = s.ret := rfl
@[simp] theorem busStop_par : s.busStop.par = s.par := rfl
@[simp] theorem busStop_slot : s.busStop.slot = s.slot := rfl
@[simp] theorem busStop_sched : s.busStop.sched = s.sched := rfl
@[simp] theorem busStop_nFree : s.busStop.nFree = s.nFree := rfl

@[simp] theorem setRxIe_hClk (v : Bool) : (s.setRxIe v).hClk = s.hClk := rfl
@[simp] theorem setRxIe_hDat (v : Bool) : (s.setRxIe v).hDat = s.hDat := rfl
@[simp] theorem setRxIe_dClk (v : Bool) : (s.setRxIe v).dClk = s.dClk := rfl
@[simp] theorem setRxIe_dDat (v : Bool) : (s.setRxIe v).dDat = s.dDat := rfl
@[simp] theorem setRxIe_clkPrev (v : Bool) : (s.setRxIe v).clkPrev = s.clkPrev := rfl
@[simp] theorem setRxIe_rxPos (v : Bool) : (s.setRxIe v).rxPos = s.rxPos := rfl
@[simp] theorem setRxIe_rxAcc (v : Bool) : (s.setRxIe v).rxAcc = s.rxAcc := rfl
@[simp] theorem setRxIe_rxPar (v : Bool) : (s.setRxIe v).rxPar = s.rxPar := rfl
@[simp] theorem setRxIe_rxIe (v : Bool) : (s.setRxIe v).rxIe = v := rfl
@[simp] theorem setRxIe_rxPending (v : Bool) : (s.setRxIe v).rxPending = (s.rxPending && v) := rfl
@[simp] theorem setRxIe_err (v : Bool) : (s.setRxIe v).err = s.err := rfl
@[simp] theorem setRxIe_mb (v : Bool) : (s.setRxIe v).mb = s.mb := rfl
@[simp] theorem setRxIe_txPhase (v : Bool) : (s.setRxIe v).txPhase = s.txPhase := rfl
@[simp] theorem setRxIe_txByte (v : Bool) : (s.setRxIe v).txByte = s.txByte := rfl
@[simp] theorem setRxIe_txI (v : Bool) : (s.setRxIe v).txI = s.txI := rfl
@[simp] theorem setRxIe_txDeadline (v : Bool) : (s.setRxIe v).txDeadline = s.txDeadline := rfl
@[simp] theorem setRxIe_sess (v : Bool) : (s.setRxIe v).sess = s.sess := rfl
@[simp] theorem setRxIe_ssStep (v : Bool) : (s.setRxIe v).ssStep = s.ssStep := rfl
@[simp] theorem setRxIe_auxMid (v : Bool) : (s.setRxIe v).auxMid = s.auxMid := rfl
@[simp] theorem setRxIe_auxScr (v : Bool) : (s.setRxIe v).auxScr = s.auxScr := rfl
@[simp] theorem setRxIe_btnPrev (v : Bool) : (s.setRxIe v).btnPrev = s.btnPrev := rfl
@[simp] theorem setRxIe_scrollAcc (v : Bool) : (s.setRxIe v).scrollAcc = s.scrollAcc := rfl
@[simp] theorem setRxIe_tLast (v : Bool) : (s.setRxIe v).tLast = s.tLast := rfl
@[simp] theorem setRxIe_jigN (v : Bool) : (s.setRxIe v).jigN = s.jigN := rfl
@[simp] theorem setRxIe_loopState (v : Bool) : (s.setRxIe v).loopState = s.loopState := rfl
@[simp] theorem setRxIe_cfgSwap (v : Bool) : (s.setRxIe v).cfgSwap = s.cfgSwap := rfl
@[simp] theorem setRxIe_cfgJiggle (v : Bool) : (s.setRxIe v).cfgJiggle = s.cfgJiggle := rfl
@[simp] theorem setRxIe_cfgScroll (v : Bool) : (s.setRxIe v).cfgScroll = s.cfgScroll := rfl
@[simp] theorem setRxIe_rep (v : Bool) : (s.setRxIe v).rep = s.rep := rfl
@[simp] theorem setRxIe_repN (v : Bool) : (s.setRxIe v).repN = s.repN := rfl
@[simp] theorem setRxIe_hbN (v : Bool) : (s.setRxIe v).hbN = s.hbN := rfl
@[simp] theorem setRxIe_tHb (v : Bool) : (s.setRxIe v).tHb = s.tHb := rfl
@[simp] theorem setRxIe_now (v : Bool) : (s.setRxIe v).now = s.now := rfl
@[simp] theorem setRxIe_inSwap (v : Bool) : (s.setRxIe v).inSwap = s.inSwap := rfl
@[simp] theorem setRxIe_inJiggle (v : Bool) : (s.setRxIe v).inJiggle = s.inJiggle := rfl
@[simp] theorem setRxIe_inScroll (v : Bool) : (s.setRxIe v).inScroll = s.inScroll := rfl
@[simp] theorem setRxIe_hostSuspended (v : Bool) : (s.setRxIe v).hostSuspended = s.hostSuspended := rfl
@[simp] theorem setRxIe_hostOut (v : Bool) : (s.setRxIe v).hostOut = s.hostOut := rfl
@[simp] theorem setRxIe_ctl (v : Bool) : (s.setRxIe v).ctl = s.ctl := rfl
@[simp] theorem setRxIe_ret (v : Bool) : (s.setRxIe v).ret = s.ret := rfl
@[simp] theorem setRxIe_par (v : Bool) : (s.setRxIe v).par = s.par := rfl
@[simp] theorem setRxIe_slot (v : Bool) : (s.setRxIe v).slot = s.slot := rfl
@[simp] theorem setRxIe_sched (v : Bool) : (s.setRxIe v).sched = s.sched := rfl
@[simp] theorem setRxIe_nFree (v : Bool) : (s.setRxIe v).nFree = s.nFree := rfl

@[simp] theorem rxIdle_hClk : s.rxIdle.hClk = s.hClk := rfl
@[simp] theorem rxIdle_hDat : s.rxIdle.hDat = s.hDat := rfl
@[simp] theorem rxIdle_dClk : s.rxIdle.dClk = s.dClk := rfl
@[simp] theorem rxIdle_dDat : s.rxIdle.dDat = s.dDat := rfl
@[simp] theorem rxIdle_clkPrev : s.rxIdle.clkPrev = s.clkPrev := rfl
@[simp] theorem rxIdle_rxPos : s.rxIdle.rxPos = 0 := rfl
@[simp] theorem rxIdle_rxAcc : s.rxIdle.rxAcc = 0x00 := rfl
@[simp] theorem rxIdle_rxPar : s.rxIdle.rxPar = true := rfl
@[simp] theorem rxIdle_rxIe : s.rxIdle.rxIe = s.rxIe := rfl
@[simp] theorem rxIdle_rxPending : s.rxIdle.rxPending = s.rxPending := rfl
@[simp] theorem rxIdle_err : s.rxIdle.err = s.err := rfl
@[simp] theorem rxIdle_mb : s.rxIdle.mb = s.mb := rfl
@[simp] theorem rxIdle_txPhase : s.rxIdle.txPhase = s.txPhase := rfl
@[simp] theorem rxIdle_txByte : s.rxIdle.txByte = s.txByte := rfl
@[simp] theorem rxIdle_txI : s.rxIdle.txI = s.txI := rfl
@[simp] theorem rxIdle_txDeadline : s.rxIdle.txDeadline = s.txDeadline := rfl
@[simp] theorem rxIdle_sess : s.rxIdle.sess = s.sess := rfl
@[simp] theorem rxIdle_ssStep : s.rxIdle.ssStep = s.ssStep := rfl
@[simp] theorem rxIdle_auxMid : s.rxIdle.auxMid = s.auxMid := rfl
@[simp] theorem rxIdle_auxScr : s.rxIdle.auxScr = s.auxScr := rfl
@[simp] theorem rxIdle_btnPrev : s.rxIdle.btnPrev = s.btnPrev := rfl
@[simp] theorem rxIdle_scrollAcc : s.rxIdle.scrollAcc = s.scrollAcc := rfl
@[simp] theorem rxIdle_tLast : s.rxIdle.tLast = s.tLast := rfl
@[simp] theorem rxIdle_jigN : s.rxIdle.jigN = s.jigN := rfl
@[simp] theorem rxIdle_loopState : s.rxIdle.loopState = s.loopState := rfl
@[simp] theorem rxIdle_cfgSwap : s.rxIdle.cfgSwap = s.cfgSwap := rfl
@[simp] theorem rxIdle_cfgJiggle : s.rxIdle.cfgJiggle = s.cfgJiggle := rfl
@[simp] theorem rxIdle_cfgScroll : s.rxIdle.cfgScroll = s.cfgScroll := rfl
@[simp] theorem rxIdle_rep : s.rxIdle.rep = s.rep := rfl
@[simp] theorem rxIdle_repN : s.rxIdle.repN = s.repN := rfl
@[simp] theorem rxIdle_hbN : s.rxIdle.hbN = s.hbN := rfl
@[simp] theorem rxIdle_tHb : s.rxIdle.tHb = s.tHb := rfl
@[simp] theorem rxIdle_now : s.rxIdle.now = s.now := rfl
@[simp] theorem rxIdle_inSwap : s.rxIdle.inSwap = s.inSwap := rfl
@[simp] theorem rxIdle_inJiggle : s.rxIdle.inJiggle = s.inJiggle := rfl
@[simp] theorem rxIdle_inScroll : s.rxIdle.inScroll = s.inScroll := rfl
@[simp] theorem rxIdle_hostSuspended : s.rxIdle.hostSuspended = s.hostSuspended := rfl
@[simp] theorem rxIdle_hostOut : s.rxIdle.hostOut = s.hostOut := rfl
@[simp] theorem rxIdle_ctl : s.rxIdle.ctl = s.ctl := rfl
@[simp] theorem rxIdle_ret : s.rxIdle.ret = s.ret := rfl
@[simp] theorem rxIdle_par : s.rxIdle.par = s.par := rfl
@[simp] theorem rxIdle_slot : s.rxIdle.slot = s.slot := rfl
@[simp] theorem rxIdle_sched : s.rxIdle.sched = s.sched := rfl
@[simp] theorem rxIdle_nFree : s.rxIdle.nFree = s.nFree := rfl

@[simp] theorem rxReset_hClk : s.rxReset.hClk = s.hClk := rfl
@[simp] theorem rxReset_hDat : s.rxReset.hDat = s.hDat := rfl
@[simp] theorem rxReset_dClk : s.rxReset.dClk = s.dClk := rfl
@[simp] theorem rxReset_dDat : s.rxReset.dDat = s.dDat := rfl
@[simp] theorem rxReset_clkPrev : s.rxReset.clkPrev = s.clkPrev := rfl
@[simp] theorem rxReset_rxPos : s.rxReset.rxPos = 0 := rfl
@[simp] theorem rxReset_rxAcc : s.rxReset.rxAcc = 0x00 := rfl
@[simp] theorem rxReset_rxPar : s.rxReset.rxPar = true := rfl
@[simp] theorem rxReset_rxIe : s.rxReset.rxIe = s.rxIe := rfl
@[simp] theorem rxReset_rxPending : s.rxReset.rxPending = false := rfl
@[simp] theorem rxReset_err : s.rxReset.err = s.err := rfl
@[simp] theorem rxReset_mb : s.rxReset.mb = s.mb := rfl
@[simp] theorem rxReset_txPhase : s.rxReset.txPhase = s.txPhase := rfl
@[simp] theorem rxReset_txByte : s.rxReset.txByte = s.txByte := rfl
@[simp] theorem rxReset_txI : s.rxReset.txI = s.txI := rfl
@[simp] theorem rxReset_txDeadline : s.rxReset.txDeadline = s.txDeadline := rfl
@[simp] theorem rxReset_sess : s.rxReset.sess = s.sess := rfl
@[simp] theorem rxReset_ssStep : s.rxReset.ssStep = s.ssStep := rfl
@[simp] theorem rxReset_auxMid : s.rxReset.auxMid = s.auxMid := rfl
@[simp] theorem rxReset_auxScr : s.rxReset.auxScr = s.auxScr := rfl
@[simp] theorem rxReset_btnPrev : s.rxReset.btnPrev = s.btnPrev := rfl
@[simp] theorem rxReset_scrollAcc : s.rxReset.scrollAcc = s.scrollAcc := rfl
@[simp] theorem rxReset_tLast : s.rxReset.tLast = s.tLast := rfl
@[simp] theorem rxReset_jigN : s.rxReset.jigN = s.jigN := rfl
@[simp] theorem rxReset_loopState : s.rxReset.loopState = s.loopState := rfl
@[simp] theorem rxReset_cfgSwap : s.rxReset.cfgSwap = s.cfgSwap := rfl
@[simp] theorem rxReset_cfgJiggle : s.rxReset.cfgJiggle = s.cfgJiggle := rfl
@[simp] theorem rxReset_cfgScroll : s.rxReset.cfgScroll = s.cfgScroll := rfl
@[simp] theorem rxReset_rep : s.rxReset.rep = s.rep := rfl
@[simp] theorem rxReset_repN : s.rxReset.repN = s.repN := rfl
@[simp] theorem rxReset_hbN : s.rxReset.hbN = s.hbN := rfl
@[simp] theorem rxReset_tHb : s.rxReset.tHb = s.tHb := rfl
@[simp] theorem rxReset_now : s.rxReset.now = s.now := rfl
@[simp] theorem rxReset_inSwap : s.rxReset.inSwap = s.inSwap := rfl
@[simp] theorem rxReset_inJiggle : s.rxReset.inJiggle = s.inJiggle := rfl
@[simp] theorem rxReset_inScroll : s.rxReset.inScroll = s.inScroll := rfl
@[simp] theorem rxReset_hostSuspended : s.rxReset.hostSuspended = s.hostSuspended := rfl
@[simp] theorem rxReset_hostOut : s.rxReset.hostOut = s.hostOut := rfl
@[simp] theorem rxReset_ctl : s.rxReset.ctl = s.ctl := rfl
@[simp] theorem rxReset_ret : s.rxReset.ret = s.ret := rfl
@[simp] theorem rxReset_par : s.rxReset.par = s.par := rfl
@[simp] theorem rxReset_slot : s.rxReset.slot = s.slot := rfl
@[simp] theorem rxReset_sched : s.rxReset.sched = s.sched := rfl
@[simp] theorem rxReset_nFree : s.rxReset.nFree = s.nFree := rfl

@[simp] theorem rxFail_hClk (e : LinkError) : (s.rxFail e).hClk = s.hClk := rfl
@[simp] theorem rxFail_hDat (e : LinkError) : (s.rxFail e).hDat = s.hDat := rfl
@[simp] theorem rxFail_dClk (e : LinkError) : (s.rxFail e).dClk = s.dClk := rfl
@[simp] theorem rxFail_dDat (e : LinkError) : (s.rxFail e).dDat = s.dDat := rfl
@[simp] theorem rxFail_clkPrev (e : LinkError) : (s.rxFail e).clkPrev = s.clkPrev := rfl
@[simp] theorem rxFail_rxPos (e : LinkError) : (s.rxFail e).rxPos = 0 := rfl
@[simp] theorem rxFail_rxAcc (e : LinkError) : (s.rxFail e).rxAcc = 0x00 := rfl
@[simp] theorem rxFail_rxPar (e : LinkError) : (s.rxFail e).rxPar = true := rfl
@[simp] theorem rxFail_rxIe (e : LinkError) : (s.rxFail e).rxIe = s.rxIe := rfl
@[simp] theorem rxFail_rxPending (e : LinkError) : (s.rxFail e).rxPending = s.rxPending := rfl
@[simp] theorem rxFail_err (e : LinkError) : (s.rxFail e).err = e.code := rfl
@[simp] theorem rxFail_mb (e : LinkError) : (s.rxFail e).mb = s.mb := rfl
@[simp] theorem rxFail_txPhase (e : LinkError) : (s.rxFail e).txPhase = s.txPhase := rfl
@[simp] theorem rxFail_txByte (e : LinkError) : (s.rxFail e).txByte = s.txByte := rfl
@[simp] theorem rxFail_txI (e : LinkError) : (s.rxFail e).txI = s.txI := rfl
@[simp] theorem rxFail_txDeadline (e : LinkError) : (s.rxFail e).txDeadline = s.txDeadline := rfl
@[simp] theorem rxFail_sess (e : LinkError) : (s.rxFail e).sess = s.sess := rfl
@[simp] theorem rxFail_ssStep (e : LinkError) : (s.rxFail e).ssStep = s.ssStep := rfl
@[simp] theorem rxFail_auxMid (e : LinkError) : (s.rxFail e).auxMid = s.auxMid := rfl
@[simp] theorem rxFail_auxScr (e : LinkError) : (s.rxFail e).auxScr = s.auxScr := rfl
@[simp] theorem rxFail_btnPrev (e : LinkError) : (s.rxFail e).btnPrev = s.btnPrev := rfl
@[simp] theorem rxFail_scrollAcc (e : LinkError) : (s.rxFail e).scrollAcc = s.scrollAcc := rfl
@[simp] theorem rxFail_tLast (e : LinkError) : (s.rxFail e).tLast = s.tLast := rfl
@[simp] theorem rxFail_jigN (e : LinkError) : (s.rxFail e).jigN = s.jigN := rfl
@[simp] theorem rxFail_loopState (e : LinkError) : (s.rxFail e).loopState = s.loopState := rfl
@[simp] theorem rxFail_cfgSwap (e : LinkError) : (s.rxFail e).cfgSwap = s.cfgSwap := rfl
@[simp] theorem rxFail_cfgJiggle (e : LinkError) : (s.rxFail e).cfgJiggle = s.cfgJiggle := rfl
@[simp] theorem rxFail_cfgScroll (e : LinkError) : (s.rxFail e).cfgScroll = s.cfgScroll := rfl
@[simp] theorem rxFail_rep (e : LinkError) : (s.rxFail e).rep = s.rep := rfl
@[simp] theorem rxFail_repN (e : LinkError) : (s.rxFail e).repN = s.repN := rfl
@[simp] theorem rxFail_hbN (e : LinkError) : (s.rxFail e).hbN = s.hbN := rfl
@[simp] theorem rxFail_tHb (e : LinkError) : (s.rxFail e).tHb = s.tHb := rfl
@[simp] theorem rxFail_now (e : LinkError) : (s.rxFail e).now = s.now := rfl
@[simp] theorem rxFail_inSwap (e : LinkError) : (s.rxFail e).inSwap = s.inSwap := rfl
@[simp] theorem rxFail_inJiggle (e : LinkError) : (s.rxFail e).inJiggle = s.inJiggle := rfl
@[simp] theorem rxFail_inScroll (e : LinkError) : (s.rxFail e).inScroll = s.inScroll := rfl
@[simp] theorem rxFail_hostSuspended (e : LinkError) : (s.rxFail e).hostSuspended = s.hostSuspended := rfl
@[simp] theorem rxFail_hostOut (e : LinkError) : (s.rxFail e).hostOut = s.hostOut := rfl
@[simp] theorem rxFail_ctl (e : LinkError) : (s.rxFail e).ctl = s.ctl := rfl
@[simp] theorem rxFail_ret (e : LinkError) : (s.rxFail e).ret = s.ret := rfl
@[simp] theorem rxFail_par (e : LinkError) : (s.rxFail e).par = s.par := rfl
@[simp] theorem rxFail_slot (e : LinkError) : (s.rxFail e).slot = s.slot := rfl
@[simp] theorem rxFail_sched (e : LinkError) : (s.rxFail e).sched = s.sched := rfl
@[simp] theorem rxFail_nFree (e : LinkError) : (s.rxFail e).nFree = s.nFree := rfl

@[simp] theorem mbPush_hClk (v : Byte) : (s.mbPush v).hClk = s.hClk := rfl
@[simp] theorem mbPush_hDat (v : Byte) : (s.mbPush v).hDat = s.hDat := rfl
@[simp] theorem mbPush_dClk (v : Byte) : (s.mbPush v).dClk = s.dClk := rfl
@[simp] theorem mbPush_dDat (v : Byte) : (s.mbPush v).dDat = s.dDat := rfl
@[simp] theorem mbPush_clkPrev (v : Byte) : (s.mbPush v).clkPrev = s.clkPrev := rfl
@[simp] theorem mbPush_rxPos (v : Byte) : (s.mbPush v).rxPos = s.rxPos := rfl
@[simp] theorem mbPush_rxAcc (v : Byte) : (s.mbPush v).rxAcc = s.rxAcc := rfl
@[simp] theorem mbPush_rxPar (v : Byte) : (s.mbPush v).rxPar = s.rxPar := rfl
@[simp] theorem mbPush_rxIe (v : Byte) : (s.mbPush v).rxIe = s.rxIe := rfl
@[simp] theorem mbPush_rxPending (v : Byte) : (s.mbPush v).rxPending = s.rxPending := rfl
@[simp] theorem mbPush_err (v : Byte) : (s.mbPush v).err = s.err := rfl
@[simp] theorem mbPush_mb (v : Byte) : (s.mbPush v).mb = mailboxPush s.mb v := rfl
@[simp] theorem mbPush_txPhase (v : Byte) : (s.mbPush v).txPhase = s.txPhase := rfl
@[simp] theorem mbPush_txByte (v : Byte) : (s.mbPush v).txByte = s.txByte := rfl
@[simp] theorem mbPush_txI (v : Byte) : (s.mbPush v).txI = s.txI := rfl
@[simp] theorem mbPush_txDeadline (v : Byte) : (s.mbPush v).txDeadline = s.txDeadline := rfl
@[simp] theorem mbPush_sess (v : Byte) : (s.mbPush v).sess = s.sess := rfl
@[simp] theorem mbPush_ssStep (v : Byte) : (s.mbPush v).ssStep = s.ssStep := rfl
@[simp] theorem mbPush_auxMid (v : Byte) : (s.mbPush v).auxMid = s.auxMid := rfl
@[simp] theorem mbPush_auxScr (v : Byte) : (s.mbPush v).auxScr = s.auxScr := rfl
@[simp] theorem mbPush_btnPrev (v : Byte) : (s.mbPush v).btnPrev = s.btnPrev := rfl
@[simp] theorem mbPush_scrollAcc (v : Byte) : (s.mbPush v).scrollAcc = s.scrollAcc := rfl
@[simp] theorem mbPush_tLast (v : Byte) : (s.mbPush v).tLast = s.tLast := rfl
@[simp] theorem mbPush_jigN (v : Byte) : (s.mbPush v).jigN = s.jigN := rfl
@[simp] theorem mbPush_loopState (v : Byte) : (s.mbPush v).loopState = s.loopState := rfl
@[simp] theorem mbPush_cfgSwap (v : Byte) : (s.mbPush v).cfgSwap = s.cfgSwap := rfl
@[simp] theorem mbPush_cfgJiggle (v : Byte) : (s.mbPush v).cfgJiggle = s.cfgJiggle := rfl
@[simp] theorem mbPush_cfgScroll (v : Byte) : (s.mbPush v).cfgScroll = s.cfgScroll := rfl
@[simp] theorem mbPush_rep (v : Byte) : (s.mbPush v).rep = s.rep := rfl
@[simp] theorem mbPush_repN (v : Byte) : (s.mbPush v).repN = s.repN := rfl
@[simp] theorem mbPush_hbN (v : Byte) : (s.mbPush v).hbN = s.hbN := rfl
@[simp] theorem mbPush_tHb (v : Byte) : (s.mbPush v).tHb = s.tHb := rfl
@[simp] theorem mbPush_now (v : Byte) : (s.mbPush v).now = s.now := rfl
@[simp] theorem mbPush_inSwap (v : Byte) : (s.mbPush v).inSwap = s.inSwap := rfl
@[simp] theorem mbPush_inJiggle (v : Byte) : (s.mbPush v).inJiggle = s.inJiggle := rfl
@[simp] theorem mbPush_inScroll (v : Byte) : (s.mbPush v).inScroll = s.inScroll := rfl
@[simp] theorem mbPush_hostSuspended (v : Byte) : (s.mbPush v).hostSuspended = s.hostSuspended := rfl
@[simp] theorem mbPush_hostOut (v : Byte) : (s.mbPush v).hostOut = s.hostOut := rfl
@[simp] theorem mbPush_ctl (v : Byte) : (s.mbPush v).ctl = s.ctl := rfl
@[simp] theorem mbPush_ret (v : Byte) : (s.mbPush v).ret = s.ret := rfl
@[simp] theorem mbPush_par (v : Byte) : (s.mbPush v).par = s.par := rfl
@[simp] theorem mbPush_slot (v : Byte) : (s.mbPush v).slot = s.slot := rfl
@[simp] theorem mbPush_sched (v : Byte) : (s.mbPush v).sched = s.sched := rfl
@[simp] theorem mbPush_nFree (v : Byte) : (s.mbPush v).nFree = s.nFree := rfl

@[simp] theorem mbPull_hClk : s.mbPull.hClk = s.hClk := rfl
@[simp] theorem mbPull_hDat : s.mbPull.hDat = s.hDat := rfl
@[simp] theorem mbPull_dClk : s.mbPull.dClk = s.dClk := rfl
@[simp] theorem mbPull_dDat : s.mbPull.dDat = s.dDat := rfl
@[simp] theorem mbPull_clkPrev : s.mbPull.clkPrev = s.clkPrev := rfl
@[simp] theorem mbPull_rxPos : s.mbPull.rxPos = s.rxPos := rfl
@[simp] theorem mbPull_rxAcc : s.mbPull.rxAcc = s.rxAcc := rfl
@[simp] theorem mbPull_rxPar : s.mbPull.rxPar = s.rxPar := rfl
@[simp] theorem mbPull_rxIe : s.mbPull.rxIe = s.rxIe := rfl
@[simp] theorem mbPull_rxPending : s.mbPull.rxPending = s.rxPending := rfl
@[simp] theorem mbPull_err : s.mbPull.err = s.err := rfl
@[simp] theorem mbPull_mb : s.mbPull.mb = s.mb.tail := rfl
@[simp] theorem mbPull_txPhase : s.mbPull.txPhase = s.txPhase := rfl
@[simp] theorem mbPull_txByte : s.mbPull.txByte = s.txByte := rfl
@[simp] theorem mbPull_txI : s.mbPull.txI = s.txI := rfl
@[simp] theorem mbPull_txDeadline : s.mbPull.txDeadline = s.txDeadline := rfl
@[simp] theorem mbPull_sess : s.mbPull.sess = s.sess := rfl
@[simp] theorem mbPull_ssStep : s.mbPull.ssStep = s.ssStep := rfl
@[simp] theorem mbPull_auxMid : s.mbPull.auxMid = s.auxMid := rfl
@[simp] theorem mbPull_auxScr : s.mbPull.auxScr = s.auxScr := rfl
@[simp] theorem mbPull_btnPrev : s.mbPull.btnPrev = s.btnPrev := rfl
@[simp] theorem mbPull_scrollAcc : s.mbPull.scrollAcc = s.scrollAcc := rfl
@[simp] theorem mbPull_tLast : s.mbPull.tLast = s.tLast := rfl
@[simp] theorem mbPull_jigN : s.mbPull.jigN = s.jigN := rfl
@[simp] theorem mbPull_loopState : s.mbPull.loopState = s.loopState := rfl
@[simp] theorem mbPull_cfgSwap : s.mbPull.cfgSwap = s.cfgSwap := rfl
@[simp] theorem mbPull_cfgJiggle : s.mbPull.cfgJiggle = s.cfgJiggle := rfl
@[simp] theorem mbPull_cfgScroll : s.mbPull.cfgScroll = s.cfgScroll := rfl
@[simp] theorem mbPull_rep : s.mbPull.rep = s.rep := rfl
@[simp] theorem mbPull_repN : s.mbPull.repN = s.repN := rfl
@[simp] theorem mbPull_hbN : s.mbPull.hbN = s.hbN := rfl
@[simp] theorem mbPull_tHb : s.mbPull.tHb = s.tHb := rfl
@[simp] theorem mbPull_now : s.mbPull.now = s.now := rfl
@[simp] theorem mbPull_inSwap : s.mbPull.inSwap = s.inSwap := rfl
@[simp] theorem mbPull_inJiggle : s.mbPull.inJiggle = s.inJiggle := rfl
@[simp] theorem mbPull_inScroll : s.mbPull.inScroll = s.inScroll := rfl
@[simp] theorem mbPull_hostSuspended : s.mbPull.hostSuspended = s.hostSuspended := rfl
@[simp] theorem mbPull_hostOut : s.mbPull.hostOut = s.hostOut := rfl
@[simp] theorem mbPull_ctl : s.mbPull.ctl = s.ctl := rfl
@[simp] theorem mbPull_ret : s.mbPull.ret = .byte s.mb.head? := rfl
@[simp] theorem mbPull_par : s.mbPull.par = s.par := rfl
@[simp] theorem mbPull_slot : s.mbPull.slot = s.slot := rfl
@[simp] theorem mbPull_sched : s.mbPull.sched = s.sched := rfl
@[simp] theorem mbPull_nFree : s.mbPull.nFree = s.nFree := rfl

@[simp] theorem mbReset_hClk : s.mbReset.hClk = s.hClk := rfl
@[simp] theorem mbReset_hDat : s.mbReset.hDat = s.hDat := rfl
@[simp] theorem mbReset_dClk : s.mbReset.dClk = s.dClk := rfl
@[simp] theorem mbReset_dDat : s.mbReset.dDat = s.dDat := rfl
@[simp] theorem mbReset_clkPrev : s.mbReset.clkPrev = s.clkPrev := rfl
@[simp] theorem mbReset_rxPos : s.mbReset.rxPos = s.rxPos := rfl
@[simp] theorem mbReset_rxAcc : s.mbReset.rxAcc = s.rxAcc := rfl
@[simp] theorem mbReset_rxPar : s.mbReset.rxPar = s.rxPar := rfl
@[simp] theorem mbReset_rxIe : s.mbReset.rxIe = s.rxIe := rfl
@[simp] theorem mbReset_rxPending : s.mbReset.rxPending = s.rxPending := rfl
@[simp] theorem mbReset_err : s.mbReset.err = s.err := rfl
@[simp] theorem mbReset_mb : s.mbReset.mb = [] := rfl
@[simp] theorem mbReset_txPhase : s.mbReset.txPhase = s.txPhase := rfl
@[simp] theorem mbReset_txByte : s.mbReset.txByte = s.txByte := rfl
@[simp] theorem mbReset_txI : s.mbReset.txI = s.txI := rfl
@[simp] theorem mbReset_txDeadline : s.mbReset.txDeadline = s.txDeadline := rfl
@[simp] theorem mbReset_sess : s.mbReset.sess = s.sess := rfl
@[simp] theorem mbReset_ssStep : s.mbReset.ssStep = s.ssStep := rfl
@[simp] theorem mbReset_auxMid : s.mbReset.auxMid = s.auxMid := rfl
@[simp] theorem mbReset_auxScr : s.mbReset.auxScr = s.auxScr := rfl
@[simp] theorem mbReset_btnPrev : s.mbReset.btnPrev = s.btnPrev := rfl
@[simp] theorem mbReset_scrollAcc : s.mbReset.scrollAcc = s.scrollAcc := rfl
@[simp] theorem mbReset_tLast : s.mbReset.tLast = s.tLast := rfl
@[simp] theorem mbReset_jigN : s.mbReset.jigN = s.jigN := rfl
@[simp] theorem mbReset_loopState : s.mbReset.loopState = s.loopState := rfl
@[simp] theorem mbReset_cfgSwap : s.mbReset.cfgSwap = s.cfgSwap := rfl
@[simp] theorem mbReset_cfgJiggle : s.mbReset.cfgJiggle = s.cfgJiggle := rfl
@[simp] theorem mbReset_cfgScroll : s.mbReset.cfgScroll = s.cfgScroll := rfl
@[simp] theorem mbReset_rep : s.mbReset.rep = s.rep := rfl
@[simp] theorem mbReset_repN : s.mbReset.repN = s.repN := rfl
@[simp] theorem mbReset_hbN : s.mbReset.hbN = s.hbN := rfl
@[simp] theorem mbReset_tHb : s.mbReset.tHb = s.tHb := rfl
@[simp] theorem mbReset_now : s.mbReset.now = s.now := rfl
@[simp] theorem mbReset_inSwap : s.mbReset.inSwap = s.inSwap := rfl
@[simp] theorem mbReset_inJiggle : s.mbReset.inJiggle = s.inJiggle := rfl
@[simp] theorem mbReset_inScroll : s.mbReset.inScroll = s.inScroll := rfl
@[simp] theorem mbReset_hostSuspended : s.mbReset.hostSuspended = s.hostSuspended := rfl
@[simp] theorem mbReset_hostOut : s.mbReset.hostOut = s.hostOut := rfl
@[simp] theorem mbReset_ctl : s.mbReset.ctl = s.ctl := rfl
@[simp] theorem mbReset_ret : s.mbReset.ret = s.ret := rfl
@[simp] theorem mbReset_par : s.mbReset.par = s.par := rfl
@[simp] theorem mbReset_slot : s.mbReset.slot = s.slot := rfl
@[simp] theorem mbReset_sched : s.mbReset.sched = s.sched := rfl
@[simp] theorem mbReset_nFree : s.mbReset.nFree = s.nFree := rfl

@[simp] theorem emit_hClk (es : List Event) : (s.emit es).hClk = s.hClk := rfl
@[simp] theorem emit_hDat (es : List Event) : (s.emit es).hDat = s.hDat := rfl
@[simp] theorem emit_dClk (es : List Event) : (s.emit es).dClk = s.dClk := rfl
@[simp] theorem emit_dDat (es : List Event) : (s.emit es).dDat = s.dDat := rfl
@[simp] theorem emit_clkPrev (es : List Event) : (s.emit es).clkPrev = s.clkPrev := rfl
@[simp] theorem emit_rxPos (es : List Event) : (s.emit es).rxPos = s.rxPos := rfl
@[simp] theorem emit_rxAcc (es : List Event) : (s.emit es).rxAcc = s.rxAcc := rfl
@[simp] theorem emit_rxPar (es : List Event) : (s.emit es).rxPar = s.rxPar := rfl
@[simp] theorem emit_rxIe (es : List Event) : (s.emit es).rxIe = s.rxIe := rfl
@[simp] theorem emit_rxPending (es : List Event) : (s.emit es).rxPending = s.rxPending := rfl
@[simp] theorem emit_err (es : List Event) : (s.emit es).err = s.err := rfl
@[simp] theorem emit_mb (es : List Event) : (s.emit es).mb = s.mb := rfl
@[simp] theorem emit_txPhase (es : List Event) : (s.emit es).txPhase = s.txPhase := rfl
@[simp] theorem emit_txByte (es : List Event) : (s.emit es).txByte = s.txByte := rfl
@[simp] theorem emit_txI (es : List Event) : (s.emit es).txI = s.txI := rfl
@[simp] theorem emit_txDeadline (es : List Event) : (s.emit es).txDeadline = s.txDeadline := rfl
@[simp] theorem emit_sess (es : List Event) : (s.emit es).sess = s.sess := rfl
@[simp] theorem emit_ssStep (es : List Event) : (s.emit es).ssStep = s.ssStep := rfl
@[simp] theorem emit_auxMid (es : List Event) : (s.emit es).auxMid = s.auxMid := rfl
@[simp] theorem emit_auxScr (es : List Event) : (s.emit es).auxScr = s.auxScr := rfl
@[simp] theorem emit_btnPrev (es : List Event) : (s.emit es).btnPrev = s.btnPrev := rfl
@[simp] theorem emit_scrollAcc (es : List Event) : (s.emit es).scrollAcc = s.scrollAcc := rfl
@[simp] theorem emit_tLast (es : List Event) : (s.emit es).tLast = s.tLast := rfl
@[simp] theorem emit_jigN (es : List Event) : (s.emit es).jigN = s.jigN := rfl
@[simp] theorem emit_loopState (es : List Event) : (s.emit es).loopState = s.loopState := rfl
@[simp] theorem emit_cfgSwap (es : List Event) : (s.emit es).cfgSwap = s.cfgSwap := rfl
@[simp] theorem emit_cfgJiggle (es : List Event) : (s.emit es).cfgJiggle = s.cfgJiggle := rfl
@[simp] theorem emit_cfgScroll (es : List Event) : (s.emit es).cfgScroll = s.cfgScroll := rfl
@[simp] theorem emit_rep (es : List Event) : (s.emit es).rep = s.rep := rfl
@[simp] theorem emit_repN (es : List Event) : (s.emit es).repN = s.repN := rfl
@[simp] theorem emit_hbN (es : List Event) : (s.emit es).hbN = s.hbN := rfl
@[simp] theorem emit_tHb (es : List Event) : (s.emit es).tHb = s.tHb := rfl
@[simp] theorem emit_now (es : List Event) : (s.emit es).now = s.now := rfl
@[simp] theorem emit_inSwap (es : List Event) : (s.emit es).inSwap = s.inSwap := rfl
@[simp] theorem emit_inJiggle (es : List Event) : (s.emit es).inJiggle = s.inJiggle := rfl
@[simp] theorem emit_inScroll (es : List Event) : (s.emit es).inScroll = s.inScroll := rfl
@[simp] theorem emit_hostSuspended (es : List Event) : (s.emit es).hostSuspended = s.hostSuspended := rfl
@[simp] theorem emit_hostOut (es : List Event) : (s.emit es).hostOut = s.hostOut ++ es := rfl
@[simp] theorem emit_ctl (es : List Event) : (s.emit es).ctl = s.ctl := rfl
@[simp] theorem emit_ret (es : List Event) : (s.emit es).ret = s.ret := rfl
@[simp] theorem emit_par (es : List Event) : (s.emit es).par = s.par := rfl
@[simp] theorem emit_slot (es : List Event) : (s.emit es).slot = s.slot := rfl
@[simp] theorem emit_sched (es : List Event) : (s.emit es).sched = s.sched := rfl
@[simp] theorem emit_nFree (es : List Event) : (s.emit es).nFree = s.nFree := rfl

@[simp] theorem call_hClk (ts : List Task) : (s.call ts).hClk = s.hClk := rfl
@[simp] theorem call_hDat (ts : List Task) : (s.call ts).hDat = s.hDat := rfl
@[simp] theorem call_dClk (ts : List Task) : (s.call ts).dClk = s.dClk := rfl
@[simp] theorem call_dDat (ts : List Task) : (s.call ts).dDat = s.dDat := rfl
@[simp] theorem call_clkPrev (ts : List Task) : (s.call ts).clkPrev = s.clkPrev := rfl
@[simp] theorem call_rxPos (ts : List Task) : (s.call ts).rxPos = s.rxPos := rfl
@[simp] theorem call_rxAcc (ts : List Task) : (s.call ts).rxAcc = s.rxAcc := rfl
@[simp] theorem call_rxPar (ts : List Task) : (s.call ts).rxPar = s.rxPar := rfl
@[simp] theorem call_rxIe (ts : List Task) : (s.call ts).rxIe = s.rxIe := rfl
@[simp] theorem call_rxPending (ts : List Task) : (s.call ts).rxPending = s.rxPending := rfl
@[simp] theorem call_err (ts : List Task) : (s.call ts).err = s.err := rfl
@[simp] theorem call_mb (ts : List Task) : (s.call ts).mb = s.mb := rfl
@[simp] theorem call_txPhase (ts : List Task) : (s.call ts).txPhase = s.txPhase := rfl
@[simp] theorem call_txByte (ts : List Task) : (s.call ts).txByte = s.txByte := rfl
@[simp] theorem call_txI (ts : List Task) : (s.call ts).txI = s.txI := rfl
@[simp] theorem call_txDeadline (ts : List Task) : (s.call ts).txDeadline = s.txDeadline := rfl
@[simp] theorem call_sess (ts : List Task) : (s.call ts).sess = s.sess := rfl
@[simp] theorem call_ssStep (ts : List Task) : (s.call ts).ssStep = s.ssStep := rfl
@[simp] theorem call_auxMid (ts : List Task) : (s.call ts).auxMid = s.auxMid := rfl
@[simp] theorem call_auxScr (ts : List Task) : (s.call ts).auxScr = s.auxScr := rfl
@[simp] theorem call_btnPrev (ts : List Task) : (s.call ts).btnPrev = s.btnPrev := rfl
@[simp] theorem call_scrollAcc (ts : List Task) : (s.call ts).scrollAcc = s.scrollAcc := rfl
@[simp] theorem call_tLast (ts : List Task) : (s.call ts).tLast = s.tLast := rfl
@[simp] theorem call_jigN (ts : List Task) : (s.call ts).jigN = s.jigN := rfl
@[simp] theorem call_loopState (ts : List Task) : (s.call ts).loopState = s.loopState := rfl
@[simp] theorem call_cfgSwap (ts : List Task) : (s.call ts).cfgSwap = s.cfgSwap := rfl
@[simp] theorem call_cfgJiggle (ts : List Task) : (s.call ts).cfgJiggle = s.cfgJiggle := rfl
@[simp] theorem call_cfgScroll (ts : List Task) : (s.call ts).cfgScroll = s.cfgScroll := rfl
@[simp] theorem call_rep (ts : List Task) : (s.call ts).rep = s.rep := rfl
@[simp] theorem call_repN (ts : List Task) : (s.call ts).repN = s.repN := rfl
@[simp] theorem call_hbN (ts : List Task) : (s.call ts).hbN = s.hbN := rfl
@[simp] theorem call_tHb (ts : List Task) : (s.call ts).tHb = s.tHb := rfl
@[simp] theorem call_now (ts : List Task) : (s.call ts).now = s.now := rfl
@[simp] theorem call_inSwap (ts : List Task) : (s.call ts).inSwap = s.inSwap := rfl
@[simp] theorem call_inJiggle (ts : List Task) : (s.call ts).inJiggle = s.inJiggle := rfl
@[simp] theorem call_inScroll (ts : List Task) : (s.call ts).inScroll = s.inScroll := rfl
@[simp] theorem call_hostSuspended (ts : List Task) : (s.call ts).hostSuspended = s.hostSuspended := rfl
@[simp] theorem call_hostOut (ts : List Task) : (s.call ts).hostOut = s.hostOut := rfl
@[simp] theorem call_ctl (ts : List Task) : (s.call ts).ctl = ts ++ s.ctl := rfl
@[simp] theorem call_ret (ts : List Task) : (s.call ts).ret = s.ret := rfl
@[simp] theorem call_par (ts : List Task) : (s.call ts).par = s.par := rfl
@[simp] theorem call_slot (ts : List Task) : (s.call ts).slot = s.slot := rfl
@[simp] theorem call_sched (ts : List Task) : (s.call ts).sched = s.sched := rfl
@[simp] theorem call_nFree (ts : List Task) : (s.call ts).nFree = s.nFree := rfl

@[simp] theorem returning_hClk (r : Ret) : (s.returning r).hClk = s.hClk := rfl
@[simp] theorem returning_hDat (r : Ret) : (s.returning r).hDat = s.hDat := rfl
@[simp] theorem returning_dClk (r : Ret) : (s.returning r).dClk = s.dClk := rfl
@[simp] theorem returning_dDat (r : Ret) : (s.returning r).dDat = s.dDat := rfl
@[simp] theorem returning_clkPrev (r : Ret) : (s.returning r).clkPrev = s.clkPrev := rfl
@[simp] theorem returning_rxPos (r : Ret) : (s.returning r).rxPos = s.rxPos := rfl
@[simp] theorem returning_rxAcc (r : Ret) : (s.returning r).rxAcc = s.rxAcc := rfl
@[simp] theorem returning_rxPar (r : Ret) : (s.returning r).rxPar = s.rxPar := rfl
@[simp] theorem returning_rxIe (r : Ret) : (s.returning r).rxIe = s.rxIe := rfl
@[simp] theorem returning_rxPending (r : Ret) : (s.returning r).rxPending = s.rxPending := rfl
@[simp] theorem returning_err (r : Ret) : (s.returning r).err = s.err := rfl
@[simp] theorem returning_mb (r : Ret) : (s.returning r).mb = s.mb := rfl
@[simp] theorem returning_txPhase (r : Ret) : (s.returning r).txPhase = s.txPhase := rfl
@[simp] theorem returning_txByte (r : Ret) : (s.returning r).txByte = s.txByte := rfl
@[simp] theorem returning_txI (r : Ret) : (s.returning r).txI = s.txI := rfl
@[simp] theorem returning_txDeadline (r : Ret) : (s.returning r).txDeadline = s.txDeadline := rfl
@[simp] theorem returning_sess (r : Ret) : (s.returning r).sess = s.sess := rfl
@[simp] theorem returning_ssStep (r : Ret) : (s.returning r).ssStep = s.ssStep := rfl
@[simp] theorem returning_auxMid (r : Ret) : (s.returning r).auxMid = s.auxMid := rfl
@[simp] theorem returning_auxScr (r : Ret) : (s.returning r).auxScr = s.auxScr := rfl
@[simp] theorem returning_btnPrev (r : Ret) : (s.returning r).btnPrev = s.btnPrev := rfl
@[simp] theorem returning_scrollAcc (r : Ret) : (s.returning r).scrollAcc = s.scrollAcc := rfl
@[simp] theorem returning_tLast (r : Ret) : (s.returning r).tLast = s.tLast := rfl
@[simp] theorem returning_jigN (r : Ret) : (s.returning r).jigN = s.jigN := rfl
@[simp] theorem returning_loopState (r : Ret) : (s.returning r).loopState = s.loopState := rfl
@[simp] theorem returning_cfgSwap (r : Ret) : (s.returning r).cfgSwap = s.cfgSwap := rfl
@[simp] theorem returning_cfgJiggle (r : Ret) : (s.returning r).cfgJiggle = s.cfgJiggle := rfl
@[simp] theorem returning_cfgScroll (r : Ret) : (s.returning r).cfgScroll = s.cfgScroll := rfl
@[simp] theorem returning_rep (r : Ret) : (s.returning r).rep = s.rep := rfl
@[simp] theorem returning_repN (r : Ret) : (s.returning r).repN = s.repN := rfl
@[simp] theorem returning_hbN (r : Ret) : (s.returning r).hbN = s.hbN := rfl
@[simp] theorem returning_tHb (r : Ret) : (s.returning r).tHb = s.tHb := rfl
@[simp] theorem returning_now (r : Ret) : (s.returning r).now = s.now := rfl
@[simp] theorem returning_inSwap (r : Ret) : (s.returning r).inSwap = s.inSwap := rfl
@[simp] theorem returning_inJiggle (r : Ret) : (s.returning r).inJiggle = s.inJiggle := rfl
@[simp] theorem returning_inScroll (r : Ret) : (s.returning r).inScroll = s.inScroll := rfl
@[simp] theorem returning_hostSuspended (r : Ret) : (s.returning r).hostSuspended = s.hostSuspended := rfl
@[simp] theorem returning_hostOut (r : Ret) : (s.returning r).hostOut = s.hostOut := rfl
@[simp] theorem returning_ctl (r : Ret) : (s.returning r).ctl = s.ctl := rfl
@[simp] theorem returning_ret (r : Ret) : (s.returning r).ret = r := rfl
@[simp] theorem returning_par (r : Ret) : (s.returning r).par = s.par := rfl
@[simp] theorem returning_slot (r : Ret) : (s.returning r).slot = s.slot := rfl
@[simp] theorem returning_sched (r : Ret) : (s.returning r).sched = s.sched := rfl
@[simp] theorem returning_nFree (r : Ret) : (s.returning r).nFree = s.nFree := rfl

@[simp] theorem raise_hClk (e : LinkError) : (s.raise e).hClk = s.hClk := rfl
@[simp] theorem raise_hDat (e : LinkError) : (s.raise e).hDat = s.hDat := rfl
@[simp] theorem raise_dClk (e : LinkError) : (s.raise e).dClk = s.dClk := rfl
@[simp] theorem raise_dDat (e : LinkError) : (s.raise e).dDat = s.dDat := rfl
@[simp] theorem raise_clkPrev (e : LinkError) : (s.raise e).clkPrev = s.clkPrev := rfl
@[simp] theorem raise_rxPos (e : LinkError) : (s.raise e).rxPos = s.rxPos := rfl
@[simp] theorem raise_rxAcc (e : LinkError) : (s.raise e).rxAcc = s.rxAcc := rfl
@[simp] theorem raise_rxPar (e : LinkError) : (s.raise e).rxPar = s.rxPar := rfl
@[simp] theorem raise_rxIe (e : LinkError) : (s.raise e).rxIe = s.rxIe := rfl
@[simp] theorem raise_rxPending (e : LinkError) : (s.raise e).rxPending = s.rxPending := rfl
@[simp] theorem raise_err (e : LinkError) : (s.raise e).err = e.code := rfl
@[simp] theorem raise_mb (e : LinkError) : (s.raise e).mb = s.mb := rfl
@[simp] theorem raise_txPhase (e : LinkError) : (s.raise e).txPhase = s.txPhase := rfl
@[simp] theorem raise_txByte (e : LinkError) : (s.raise e).txByte = s.txByte := rfl
@[simp] theorem raise_txI (e : LinkError) : (s.raise e).txI = s.txI := rfl
@[simp] theorem raise_txDeadline (e : LinkError) : (s.raise e).txDeadline = s.txDeadline := rfl
@[simp] theorem raise_sess (e : LinkError) : (s.raise e).sess = s.sess := rfl
@[simp] theorem raise_ssStep (e : LinkError) : (s.raise e).ssStep = s.ssStep := rfl
@[simp] theorem raise_auxMid (e : LinkError) : (s.raise e).auxMid = s.auxMid := rfl
@[simp] theorem raise_auxScr (e : LinkError) : (s.raise e).auxScr = s.auxScr := rfl
@[simp] theorem raise_btnPrev (e : LinkError) : (s.raise e).btnPrev = s.btnPrev := rfl
@[simp] theorem raise_scrollAcc (e : LinkError) : (s.raise e).scrollAcc = s.scrollAcc := rfl
@[simp] theorem raise_tLast (e : LinkError) : (s.raise e).tLast = s.tLast := rfl
@[simp] theorem raise_jigN (e : LinkError) : (s.raise e).jigN = s.jigN := rfl
@[simp] theorem raise_loopState (e : LinkError) : (s.raise e).loopState = s.loopState := rfl
@[simp] theorem raise_cfgSwap (e : LinkError) : (s.raise e).cfgSwap = s.cfgSwap := rfl
@[simp] theorem raise_cfgJiggle (e : LinkError) : (s.raise e).cfgJiggle = s.cfgJiggle := rfl
@[simp] theorem raise_cfgScroll (e : LinkError) : (s.raise e).cfgScroll = s.cfgScroll := rfl
@[simp] theorem raise_rep (e : LinkError) : (s.raise e).rep = s.rep := rfl
@[simp] theorem raise_repN (e : LinkError) : (s.raise e).repN = s.repN := rfl
@[simp] theorem raise_hbN (e : LinkError) : (s.raise e).hbN = s.hbN := rfl
@[simp] theorem raise_tHb (e : LinkError) : (s.raise e).tHb = s.tHb := rfl
@[simp] theorem raise_now (e : LinkError) : (s.raise e).now = s.now := rfl
@[simp] theorem raise_inSwap (e : LinkError) : (s.raise e).inSwap = s.inSwap := rfl
@[simp] theorem raise_inJiggle (e : LinkError) : (s.raise e).inJiggle = s.inJiggle := rfl
@[simp] theorem raise_inScroll (e : LinkError) : (s.raise e).inScroll = s.inScroll := rfl
@[simp] theorem raise_hostSuspended (e : LinkError) : (s.raise e).hostSuspended = s.hostSuspended := rfl
@[simp] theorem raise_hostOut (e : LinkError) : (s.raise e).hostOut = s.hostOut := rfl
@[simp] theorem raise_ctl (e : LinkError) : (s.raise e).ctl = s.ctl := rfl
@[simp] theorem raise_ret (e : LinkError) : (s.raise e).ret = s.ret := rfl
@[simp] theorem raise_par (e : LinkError) : (s.raise e).par = s.par := rfl
@[simp] theorem raise_slot (e : LinkError) : (s.raise e).slot = s.slot := rfl
@[simp] theorem raise_sched (e : LinkError) : (s.raise e).sched = s.sched := rfl
@[simp] theorem raise_nFree (e : LinkError) : (s.raise e).nFree = s.nFree := rfl

@[simp] theorem raiseDesync_hClk (e : LinkError) : (s.raiseDesync e).hClk = s.hClk := rfl
@[simp] theorem raiseDesync_hDat (e : LinkError) : (s.raiseDesync e).hDat = s.hDat := rfl
@[simp] theorem raiseDesync_dClk (e : LinkError) : (s.raiseDesync e).dClk = s.dClk := rfl
@[simp] theorem raiseDesync_dDat (e : LinkError) : (s.raiseDesync e).dDat = s.dDat := rfl
@[simp] theorem raiseDesync_clkPrev (e : LinkError) : (s.raiseDesync e).clkPrev = s.clkPrev := rfl
@[simp] theorem raiseDesync_rxPos (e : LinkError) : (s.raiseDesync e).rxPos = s.rxPos := rfl
@[simp] theorem raiseDesync_rxAcc (e : LinkError) : (s.raiseDesync e).rxAcc = s.rxAcc := rfl
@[simp] theorem raiseDesync_rxPar (e : LinkError) : (s.raiseDesync e).rxPar = s.rxPar := rfl
@[simp] theorem raiseDesync_rxIe (e : LinkError) : (s.raiseDesync e).rxIe = s.rxIe := rfl
@[simp] theorem raiseDesync_rxPending (e : LinkError) : (s.raiseDesync e).rxPending = s.rxPending := rfl
@[simp] theorem raiseDesync_err (e : LinkError) : (s.raiseDesync e).err = e.code := rfl
@[simp] theorem raiseDesync_mb (e : LinkError) : (s.raiseDesync e).mb = s.mb := rfl
@[simp] theorem raiseDesync_txPhase (e : LinkError) : (s.raiseDesync e).txPhase = s.txPhase := rfl
@[simp] theorem raiseDesync_txByte (e : LinkError) : (s.raiseDesync e).txByte = s.txByte := rfl
@[simp] theorem raiseDesync_txI (e : LinkError) : (s.raiseDesync e).txI = s.txI := rfl
@[simp] theorem raiseDesync_txDeadline (e : LinkError) : (s.raiseDesync e).txDeadline = s.txDeadline := rfl
@[simp] theorem raiseDesync_sess (e : LinkError) : (s.raiseDesync e).sess = .desync := rfl
@[simp] theorem raiseDesync_ssStep (e : LinkError) : (s.raiseDesync e).ssStep = s.ssStep := rfl
@[simp] theorem raiseDesync_auxMid (e : LinkError) : (s.raiseDesync e).auxMid = s.auxMid := rfl
@[simp] theorem raiseDesync_auxScr (e : LinkError) : (s.raiseDesync e).auxScr = s.auxScr := rfl
@[simp] theorem raiseDesync_btnPrev (e : LinkError) : (s.raiseDesync e).btnPrev = s.btnPrev := rfl
@[simp] theorem raiseDesync_scrollAcc (e : LinkError) : (s.raiseDesync e).scrollAcc = s.scrollAcc := rfl
@[simp] theorem raiseDesync_tLast (e : LinkError) : (s.raiseDesync e).tLast = s.tLast := rfl
@[simp] theorem raiseDesync_jigN (e : LinkError) : (s.raiseDesync e).jigN = s.jigN := rfl
@[simp] theorem raiseDesync_loopState (e : LinkError) : (s.raiseDesync e).loopState = s.loopState := rfl
@[simp] theorem raiseDesync_cfgSwap (e : LinkError) : (s.raiseDesync e).cfgSwap = s.cfgSwap := rfl
@[simp] theorem raiseDesync_cfgJiggle (e : LinkError) : (s.raiseDesync e).cfgJiggle = s.cfgJiggle := rfl
@[simp] theorem raiseDesync_cfgScroll (e : LinkError) : (s.raiseDesync e).cfgScroll = s.cfgScroll := rfl
@[simp] theorem raiseDesync_rep (e : LinkError) : (s.raiseDesync e).rep = s.rep := rfl
@[simp] theorem raiseDesync_repN (e : LinkError) : (s.raiseDesync e).repN = s.repN := rfl
@[simp] theorem raiseDesync_hbN (e : LinkError) : (s.raiseDesync e).hbN = s.hbN := rfl
@[simp] theorem raiseDesync_tHb (e : LinkError) : (s.raiseDesync e).tHb = s.tHb := rfl
@[simp] theorem raiseDesync_now (e : LinkError) : (s.raiseDesync e).now = s.now := rfl
@[simp] theorem raiseDesync_inSwap (e : LinkError) : (s.raiseDesync e).inSwap = s.inSwap := rfl
@[simp] theorem raiseDesync_inJiggle (e : LinkError) : (s.raiseDesync e).inJiggle = s.inJiggle := rfl
@[simp] theorem raiseDesync_inScroll (e : LinkError) : (s.raiseDesync e).inScroll = s.inScroll := rfl
@[simp] theorem raiseDesync_hostSuspended (e : LinkError) : (s.raiseDesync e).hostSuspended = s.hostSuspended := rfl
@[simp] theorem raiseDesync_hostOut (e : LinkError) : (s.raiseDesync e).hostOut = s.hostOut := rfl
@[simp] theorem raiseDesync_ctl (e : LinkError) : (s.raiseDesync e).ctl = s.ctl := rfl
@[simp] theorem raiseDesync_ret (e : LinkError) : (s.raiseDesync e).ret = s.ret := rfl
@[simp] theorem raiseDesync_par (e : LinkError) : (s.raiseDesync e).par = s.par := rfl
@[simp] theorem raiseDesync_slot (e : LinkError) : (s.raiseDesync e).slot = s.slot := rfl
@[simp] theorem raiseDesync_sched (e : LinkError) : (s.raiseDesync e).sched = s.sched := rfl
@[simp] theorem raiseDesync_nFree (e : LinkError) : (s.raiseDesync e).nFree = s.nFree := rfl

@[simp] theorem takeRecovery_hClk : s.takeRecovery.hClk = .low := rfl
@[simp] theorem takeRecovery_hDat : s.takeRecovery.hDat = .rel := rfl
@[simp] theorem takeRecovery_dClk : s.takeRecovery.dClk = s.dClk := rfl
@[simp] theorem takeRecovery_dDat : s.takeRecovery.dDat = s.dDat := rfl
@[simp] theorem takeRecovery_clkPrev : s.takeRecovery.clkPrev = wiredAnd .low s.dClk := rfl
@[simp] theorem takeRecovery_rxPos : s.takeRecovery.rxPos = 0 := rfl
@[simp] theorem takeRecovery_rxAcc : s.takeRecovery.rxAcc = 0x00 := rfl
@[simp] theorem takeRecovery_rxPar : s.takeRecovery.rxPar = true := rfl
@[simp] theorem takeRecovery_rxIe : s.takeRecovery.rxIe = false := rfl
@[simp] theorem takeRecovery_rxPending : s.takeRecovery.rxPending = (s.clkPrev && !wiredAnd .low s.dClk && false) := rfl
@[simp] theorem takeRecovery_err : s.takeRecovery.err = 0x00 := rfl
@[simp] theorem takeRecovery_mb : s.takeRecovery.mb = [] := rfl
@[simp] theorem takeRecovery_txPhase : s.takeRecovery.txPhase = s.txPhase := rfl
@[simp] theorem takeRecovery_txByte : s.takeRecovery.txByte = s.txByte := rfl
@[simp] theorem takeRecovery_txI : s.takeRecovery.txI = s.txI := rfl
@[simp] theorem takeRecovery_txDeadline : s.takeRecovery.txDeadline = s.txDeadline := rfl
@[simp] theorem takeRecovery_sess : s.takeRecovery.sess = s.sess := rfl
@[simp] theorem takeRecovery_ssStep : s.takeRecovery.ssStep = s.ssStep := rfl
@[simp] theorem takeRecovery_auxMid : s.takeRecovery.auxMid = s.auxMid := rfl
@[simp] theorem takeRecovery_auxScr : s.takeRecovery.auxScr = s.auxScr := rfl
@[simp] theorem takeRecovery_btnPrev : s.takeRecovery.btnPrev = s.btnPrev := rfl
@[simp] theorem takeRecovery_scrollAcc : s.takeRecovery.scrollAcc = s.scrollAcc := rfl
@[simp] theorem takeRecovery_tLast : s.takeRecovery.tLast = s.tLast := rfl
@[simp] theorem takeRecovery_jigN : s.takeRecovery.jigN = s.jigN := rfl
@[simp] theorem takeRecovery_loopState : s.takeRecovery.loopState = s.loopState := rfl
@[simp] theorem takeRecovery_cfgSwap : s.takeRecovery.cfgSwap = s.cfgSwap := rfl
@[simp] theorem takeRecovery_cfgJiggle : s.takeRecovery.cfgJiggle = s.cfgJiggle := rfl
@[simp] theorem takeRecovery_cfgScroll : s.takeRecovery.cfgScroll = s.cfgScroll := rfl
@[simp] theorem takeRecovery_rep : s.takeRecovery.rep = s.rep := rfl
@[simp] theorem takeRecovery_repN : s.takeRecovery.repN = s.repN := rfl
@[simp] theorem takeRecovery_hbN : s.takeRecovery.hbN = s.hbN := rfl
@[simp] theorem takeRecovery_tHb : s.takeRecovery.tHb = s.tHb := rfl
@[simp] theorem takeRecovery_now : s.takeRecovery.now = s.now := rfl
@[simp] theorem takeRecovery_inSwap : s.takeRecovery.inSwap = s.inSwap := rfl
@[simp] theorem takeRecovery_inJiggle : s.takeRecovery.inJiggle = s.inJiggle := rfl
@[simp] theorem takeRecovery_inScroll : s.takeRecovery.inScroll = s.inScroll := rfl
@[simp] theorem takeRecovery_hostSuspended : s.takeRecovery.hostSuspended = s.hostSuspended := rfl
@[simp] theorem takeRecovery_hostOut : s.takeRecovery.hostOut = s.hostOut := rfl
@[simp] theorem takeRecovery_ctl : s.takeRecovery.ctl = s.ctl := rfl
@[simp] theorem takeRecovery_ret : s.takeRecovery.ret = s.ret := rfl
@[simp] theorem takeRecovery_par : s.takeRecovery.par = s.par := rfl
@[simp] theorem takeRecovery_slot : s.takeRecovery.slot = s.slot := rfl
@[simp] theorem takeRecovery_sched : s.takeRecovery.sched = s.sched := rfl
@[simp] theorem takeRecovery_nFree : s.takeRecovery.nFree = s.nFree := rfl

@[simp] theorem returnFromRecovery_hClk : s.returnFromRecovery.hClk = s.hClk := rfl
@[simp] theorem returnFromRecovery_hDat : s.returnFromRecovery.hDat = s.hDat := rfl
@[simp] theorem returnFromRecovery_dClk : s.returnFromRecovery.dClk = s.dClk := rfl
@[simp] theorem returnFromRecovery_dDat : s.returnFromRecovery.dDat = s.dDat := rfl
@[simp] theorem returnFromRecovery_clkPrev : s.returnFromRecovery.clkPrev = s.clkPrev := rfl
@[simp] theorem returnFromRecovery_rxPos : s.returnFromRecovery.rxPos = s.rxPos := rfl
@[simp] theorem returnFromRecovery_rxAcc : s.returnFromRecovery.rxAcc = s.rxAcc := rfl
@[simp] theorem returnFromRecovery_rxPar : s.returnFromRecovery.rxPar = s.rxPar := rfl
@[simp] theorem returnFromRecovery_rxIe : s.returnFromRecovery.rxIe = s.rxIe := rfl
@[simp] theorem returnFromRecovery_rxPending : s.returnFromRecovery.rxPending = s.rxPending := rfl
@[simp] theorem returnFromRecovery_err : s.returnFromRecovery.err = s.err := rfl
@[simp] theorem returnFromRecovery_mb : s.returnFromRecovery.mb = s.mb := rfl
@[simp] theorem returnFromRecovery_txPhase : s.returnFromRecovery.txPhase = s.txPhase := rfl
@[simp] theorem returnFromRecovery_txByte : s.returnFromRecovery.txByte = s.txByte := rfl
@[simp] theorem returnFromRecovery_txI : s.returnFromRecovery.txI = s.txI := rfl
@[simp] theorem returnFromRecovery_txDeadline : s.returnFromRecovery.txDeadline = s.txDeadline := rfl
@[simp] theorem returnFromRecovery_sess : s.returnFromRecovery.sess = s.sess := rfl
@[simp] theorem returnFromRecovery_ssStep : s.returnFromRecovery.ssStep = s.ssStep := rfl
@[simp] theorem returnFromRecovery_auxMid : s.returnFromRecovery.auxMid = s.auxMid := rfl
@[simp] theorem returnFromRecovery_auxScr : s.returnFromRecovery.auxScr = s.auxScr := rfl
@[simp] theorem returnFromRecovery_btnPrev : s.returnFromRecovery.btnPrev = s.btnPrev := rfl
@[simp] theorem returnFromRecovery_scrollAcc : s.returnFromRecovery.scrollAcc = s.scrollAcc := rfl
@[simp] theorem returnFromRecovery_tLast : s.returnFromRecovery.tLast = s.tLast := rfl
@[simp] theorem returnFromRecovery_jigN : s.returnFromRecovery.jigN = s.jigN := rfl
@[simp] theorem returnFromRecovery_loopState : s.returnFromRecovery.loopState = .normal := rfl
@[simp] theorem returnFromRecovery_cfgSwap : s.returnFromRecovery.cfgSwap = s.cfgSwap := rfl
@[simp] theorem returnFromRecovery_cfgJiggle : s.returnFromRecovery.cfgJiggle = s.cfgJiggle := rfl
@[simp] theorem returnFromRecovery_cfgScroll : s.returnFromRecovery.cfgScroll = s.cfgScroll := rfl
@[simp] theorem returnFromRecovery_rep : s.returnFromRecovery.rep = s.rep := rfl
@[simp] theorem returnFromRecovery_repN : s.returnFromRecovery.repN = s.repN := rfl
@[simp] theorem returnFromRecovery_hbN : s.returnFromRecovery.hbN = s.hbN := rfl
@[simp] theorem returnFromRecovery_tHb : s.returnFromRecovery.tHb = s.tHb := rfl
@[simp] theorem returnFromRecovery_now : s.returnFromRecovery.now = s.now := rfl
@[simp] theorem returnFromRecovery_inSwap : s.returnFromRecovery.inSwap = s.inSwap := rfl
@[simp] theorem returnFromRecovery_inJiggle : s.returnFromRecovery.inJiggle = s.inJiggle := rfl
@[simp] theorem returnFromRecovery_inScroll : s.returnFromRecovery.inScroll = s.inScroll := rfl
@[simp] theorem returnFromRecovery_hostSuspended : s.returnFromRecovery.hostSuspended = s.hostSuspended := rfl
@[simp] theorem returnFromRecovery_hostOut : s.returnFromRecovery.hostOut = s.hostOut := rfl
@[simp] theorem returnFromRecovery_ctl : s.returnFromRecovery.ctl = s.ctl := rfl
@[simp] theorem returnFromRecovery_ret : s.returnFromRecovery.ret = s.ret := rfl
@[simp] theorem returnFromRecovery_par : s.returnFromRecovery.par = s.par := rfl
@[simp] theorem returnFromRecovery_slot : s.returnFromRecovery.slot = s.slot := rfl
@[simp] theorem returnFromRecovery_sched : s.returnFromRecovery.sched = s.sched := rfl
@[simp] theorem returnFromRecovery_nFree : s.returnFromRecovery.nFree = s.nFree := rfl

@[simp] theorem txAbort_hClk : s.txAbort.hClk = .low := rfl
@[simp] theorem txAbort_hDat : s.txAbort.hDat = .rel := rfl
@[simp] theorem txAbort_dClk : s.txAbort.dClk = s.dClk := rfl
@[simp] theorem txAbort_dDat : s.txAbort.dDat = s.dDat := rfl
@[simp] theorem txAbort_clkPrev : s.txAbort.clkPrev = wiredAnd .low s.dClk := rfl
@[simp] theorem txAbort_rxPos : s.txAbort.rxPos = s.rxPos := rfl
@[simp] theorem txAbort_rxAcc : s.txAbort.rxAcc = s.rxAcc := rfl
@[simp] theorem txAbort_rxPar : s.txAbort.rxPar = s.rxPar := rfl
@[simp] theorem txAbort_rxIe : s.txAbort.rxIe = s.rxIe := rfl
@[simp] theorem txAbort_rxPending : s.txAbort.rxPending = (s.rxPending || (s.clkPrev && !wiredAnd .low s.dClk && s.rxIe)) := rfl
@[simp] theorem txAbort_err : s.txAbort.err = 0x04 := rfl
@[simp] theorem txAbort_mb : s.txAbort.mb = s.mb := rfl
@[simp] theorem txAbort_txPhase : s.txAbort.txPhase = .off := rfl
@[simp] theorem txAbort_txByte : s.txAbort.txByte = s.txByte := rfl
@[simp] theorem txAbort_txI : s.txAbort.txI = s.txI := rfl
@[simp] theorem txAbort_txDeadline : s.txAbort.txDeadline = s.txDeadline := rfl
@[simp] theorem txAbort_sess : s.txAbort.sess = s.sess := rfl
@[simp] theorem txAbort_ssStep : s.txAbort.ssStep = s.ssStep := rfl
@[simp] theorem txAbort_auxMid : s.txAbort.auxMid = s.auxMid := rfl
@[simp] theorem txAbort_auxScr : s.txAbort.auxScr = s.auxScr := rfl
@[simp] theorem txAbort_btnPrev : s.txAbort.btnPrev = s.btnPrev := rfl
@[simp] theorem txAbort_scrollAcc : s.txAbort.scrollAcc = s.scrollAcc := rfl
@[simp] theorem txAbort_tLast : s.txAbort.tLast = s.tLast := rfl
@[simp] theorem txAbort_jigN : s.txAbort.jigN = s.jigN := rfl
@[simp] theorem txAbort_loopState : s.txAbort.loopState = s.loopState := rfl
@[simp] theorem txAbort_cfgSwap : s.txAbort.cfgSwap = s.cfgSwap := rfl
@[simp] theorem txAbort_cfgJiggle : s.txAbort.cfgJiggle = s.cfgJiggle := rfl
@[simp] theorem txAbort_cfgScroll : s.txAbort.cfgScroll = s.cfgScroll := rfl
@[simp] theorem txAbort_rep : s.txAbort.rep = s.rep := rfl
@[simp] theorem txAbort_repN : s.txAbort.repN = s.repN := rfl
@[simp] theorem txAbort_hbN : s.txAbort.hbN = s.hbN := rfl
@[simp] theorem txAbort_tHb : s.txAbort.tHb = s.tHb := rfl
@[simp] theorem txAbort_now : s.txAbort.now = s.now := rfl
@[simp] theorem txAbort_inSwap : s.txAbort.inSwap = s.inSwap := rfl
@[simp] theorem txAbort_inJiggle : s.txAbort.inJiggle = s.inJiggle := rfl
@[simp] theorem txAbort_inScroll : s.txAbort.inScroll = s.inScroll := rfl
@[simp] theorem txAbort_hostSuspended : s.txAbort.hostSuspended = s.hostSuspended := rfl
@[simp] theorem txAbort_hostOut : s.txAbort.hostOut = s.hostOut := rfl
@[simp] theorem txAbort_ctl : s.txAbort.ctl = s.ctl := rfl
@[simp] theorem txAbort_ret : s.txAbort.ret = .status false := rfl
@[simp] theorem txAbort_par : s.txAbort.par = s.par := rfl
@[simp] theorem txAbort_slot : s.txAbort.slot = s.slot := rfl
@[simp] theorem txAbort_sched : s.txAbort.sched = s.sched := rfl
@[simp] theorem txAbort_nFree : s.txAbort.nFree = s.nFree := rfl

@[simp] theorem txStart_hClk (b : Byte) : (s.txStart b).hClk = .rel := rfl
@[simp] theorem txStart_hDat (b : Byte) : (s.txStart b).hDat = .rel := rfl
@[simp] theorem txStart_dClk (b : Byte) : (s.txStart b).dClk = s.dClk := rfl
@[simp] theorem txStart_dDat (b : Byte) : (s.txStart b).dDat = s.dDat := rfl
@[simp] theorem txStart_clkPrev (b : Byte) : (s.txStart b).clkPrev = wiredAnd .rel s.dClk := rfl
@[simp] theorem txStart_rxPos (b : Byte) : (s.txStart b).rxPos = 0 := rfl
@[simp] theorem txStart_rxAcc (b : Byte) : (s.txStart b).rxAcc = 0x00 := rfl
@[simp] theorem txStart_rxPar (b : Byte) : (s.txStart b).rxPar = true := rfl
@[simp] theorem txStart_rxIe (b : Byte) : (s.txStart b).rxIe = false := rfl
@[simp] theorem txStart_rxPending (b : Byte) : (s.txStart b).rxPending = (false || (s.clkPrev && !wiredAnd .rel s.dClk && false)) := rfl
@[simp] theorem txStart_err (b : Byte) : (s.txStart b).err = s.err := rfl
@[simp] theorem txStart_mb (b : Byte) : (s.txStart b).mb = s.mb := rfl
@[simp] theorem txStart_txPhase (b : Byte) : (s.txStart b).txPhase = .req1 := rfl
@[simp] theorem txStart_txByte (b : Byte) : (s.txStart b).txByte = b := rfl
@[simp] theorem txStart_txI (b : Byte) : (s.txStart b).txI = 0 := rfl
@[simp] theorem txStart_txDeadline (b : Byte) : (s.txStart b).txDeadline = s.now + s.par.tTx := rfl
@[simp] theorem txStart_sess (b : Byte) : (s.txStart b).sess = s.sess := rfl
@[simp] theorem txStart_ssStep (b : Byte) : (s.txStart b).ssStep = s.ssStep := rfl
@[simp] theorem txStart_auxMid (b : Byte) : (s.txStart b).auxMid = s.auxMid := rfl
@[simp] theorem txStart_auxScr (b : Byte) : (s.txStart b).auxScr = s.auxScr := rfl
@[simp] theorem txStart_btnPrev (b : Byte) : (s.txStart b).btnPrev = s.btnPrev := rfl
@[simp] theorem txStart_scrollAcc (b : Byte) : (s.txStart b).scrollAcc = s.scrollAcc := rfl
@[simp] theorem txStart_tLast (b : Byte) : (s.txStart b).tLast = s.tLast := rfl
@[simp] theorem txStart_jigN (b : Byte) : (s.txStart b).jigN = s.jigN := rfl
@[simp] theorem txStart_loopState (b : Byte) : (s.txStart b).loopState = s.loopState := rfl
@[simp] theorem txStart_cfgSwap (b : Byte) : (s.txStart b).cfgSwap = s.cfgSwap := rfl
@[simp] theorem txStart_cfgJiggle (b : Byte) : (s.txStart b).cfgJiggle = s.cfgJiggle := rfl
@[simp] theorem txStart_cfgScroll (b : Byte) : (s.txStart b).cfgScroll = s.cfgScroll := rfl
@[simp] theorem txStart_rep (b : Byte) : (s.txStart b).rep = s.rep := rfl
@[simp] theorem txStart_repN (b : Byte) : (s.txStart b).repN = s.repN := rfl
@[simp] theorem txStart_hbN (b : Byte) : (s.txStart b).hbN = s.hbN := rfl
@[simp] theorem txStart_tHb (b : Byte) : (s.txStart b).tHb = s.tHb := rfl
@[simp] theorem txStart_now (b : Byte) : (s.txStart b).now = s.now := rfl
@[simp] theorem txStart_inSwap (b : Byte) : (s.txStart b).inSwap = s.inSwap := rfl
@[simp] theorem txStart_inJiggle (b : Byte) : (s.txStart b).inJiggle = s.inJiggle := rfl
@[simp] theorem txStart_inScroll (b : Byte) : (s.txStart b).inScroll = s.inScroll := rfl
@[simp] theorem txStart_hostSuspended (b : Byte) : (s.txStart b).hostSuspended = s.hostSuspended := rfl
@[simp] theorem txStart_hostOut (b : Byte) : (s.txStart b).hostOut = s.hostOut := rfl
@[simp] theorem txStart_ctl (b : Byte) : (s.txStart b).ctl = s.ctl := rfl
@[simp] theorem txStart_ret (b : Byte) : (s.txStart b).ret = s.ret := rfl
@[simp] theorem txStart_par (b : Byte) : (s.txStart b).par = s.par := rfl
@[simp] theorem txStart_slot (b : Byte) : (s.txStart b).slot = s.slot := rfl
@[simp] theorem txStart_sched (b : Byte) : (s.txStart b).sched = s.sched := rfl
@[simp] theorem txStart_nFree (b : Byte) : (s.txStart b).nFree = s.nFree := rfl

/-- The levels follow the drives. -/
@[simp] theorem drvDat_clk (x : Drive) : (s.drvDat x).clk = s.clk := rfl
@[simp] theorem devDat_clk (x : Drive) : (s.devDat x).clk = s.clk := rfl
@[simp] theorem drvClk_clk (x : Drive) : (s.drvClk x).clk = wiredAnd x s.dClk := rfl
@[simp] theorem devClk_clk (x : Drive) : (s.devClk x).clk = wiredAnd s.hClk x := rfl
@[simp] theorem drvDat_dat (x : Drive) : (s.drvDat x).dat = wiredAnd x s.dDat := rfl
@[simp] theorem devDat_dat (x : Drive) : (s.devDat x).dat = wiredAnd s.hDat x := rfl
@[simp] theorem drvClk_dat (x : Drive) : (s.drvClk x).dat = s.dat := rfl
@[simp] theorem devClk_dat (x : Drive) : (s.devClk x).dat = s.dat := rfl

end Sys2Proof.Machine
end

