-- ==== Sys2Proof/Laws/Ops.lean ====
section
/-! SUPPORT. One lemma per shared operation that says once everything it can do; the lemmas on bytes, parity and division they rest on. -/

namespace Sys2Proof.Machine

open Sys2Proof Sys2Proof.Config

/-! ## Bytes, parity, division -/

/-- R104: what shifting a data bit into the accumulator gives, as a number. -/
theorem accNext_toNat : ∀ (a : Byte) (d : Bool), (accNext a d).toNat = a.toNat / 2 + 128 * d.toNat := by decide

/-- R163, R164: shifting a data bit over a 0 toggles the parity by that bit. -/
theorem oddpar_accNext : ∀ (a : Byte) (d : Bool), a.toNat % 2 = 0 → oddpar (accNext a d) = (oddpar a ^^ d) := by decide

/-- R104: the eight bits of a byte, least significant first, shifted into any accumulator give the byte. -/
theorem accNext_bits : ∀ b : Byte, ([0, 1, 2, 3, 4, 5, 6, 7].map (bit b)).foldl accNext 0x00 = b := by decide

/-- R102: the running parity over the eight bits of a byte, from 1, is its odd parity. -/
theorem parityNext_bits : ∀ b : Byte, ([0, 1, 2, 3, 4, 5, 6, 7].map (bit b)).foldl parityNext true = oddpar b := by
  decide

/-- R300: a code is one of the seven, never 0. -/
theorem code_le (e : LinkError) : e.code.toNat ≤ 7 := by cases e <;> decide
theorem code_ne (e : LinkError) : e.code ≠ 0#8 := by cases e <;> decide

/-- R14: `tdiv` by 8 is 0 exactly below 8 in absolute value. -/
theorem tdiv_eq_zero {a : Int} (h : tdiv a scrollDiv = 0) : -7 ≤ a ∧ a ≤ 7 := by
  have e : a.natAbs / 8 = 0 := by
    by_contra hne
    have hs : a.sign ≠ 0 := by
      intro h0
      rw [Int.sign_eq_zero_iff_zero] at h0
      subst h0
      simp at hne
    exact mul_ne_zero hs (Int.natCast_ne_zero.mpr hne) h
  omega

/-- The value of the bytes of a number is the number, as far as the bytes reach. -/
theorem leNat_leBytes (k n : Nat) : leNat (leBytes k n) = n % 256 ^ k := by
  induction k generalizing n with
  | zero => simp [leBytes, leNat, Nat.mod_one]
  | succ k ih =>
    have h1 : 256 ^ (k + 1) = 256 * 256 ^ k := by rw [Nat.pow_succ, Nat.mul_comm]
    simp only [leBytes, leNat, ih, BitVec.toNat_ofNat]
    rw [h1, Nat.mod_mul]

@[simp] theorem leBytes_length (k n : Nat) : (leBytes k n).length = k := by
  induction k generalizing n with
  | zero => rfl
  | succ k ih => simp [leBytes, ih]

/-! ## The mailbox -/

/-- R141, R147 (a): a push never exceeds the capacity. -/
theorem mailboxPush_length (mb : List Byte) (v : Byte) (h : mb.length ≤ mbCap) :
    (mailboxPush mb v).length ≤ mbCap := by
  unfold mailboxPush
  split
  · simp only [List.length_append, List.length_cons, List.length_nil]; omega
  · exact h

/-- R141: below the capacity a push appends. -/
theorem mailboxPush_room {mb : List Byte} (v : Byte) (h : mb.length < mbCap) : mailboxPush mb v = mb ++ [v] := by
  unfold mailboxPush; rw [if_pos h]

/-- R141: a push into a full mailbox changes nothing. -/
theorem mailboxPush_full {mb : List Byte} (v : Byte) (h : mbCap ≤ mb.length) : mailboxPush mb v = mb := by
  unfold mailboxPush; rw [if_neg (by omega)]

/-! ## The lines -/

/-- R23, R25: while a driver holds a line low, the line is low. -/
@[simp] theorem wiredAnd_low_left (x : Drive) : wiredAnd .low x = false := rfl
@[simp] theorem wiredAnd_low_right (x : Drive) : wiredAnd x .low = false := by cases x <;> rfl

/-- R24: the level a released line takes from the drive of a bit. -/
@[simp] theorem wiredAnd_rel_driveOf (d : Bool) : wiredAnd .rel (driveOf d) = d := by cases d <;> rfl

/-! ## The receiver -/

/-- R161: on a high clock RX_EDGE only clears the pending edge. -/
theorem rxEdge_high {s : State} (h : s.clk = true) : s.rxEdge = { s with rxPending := false } := if_pos h

/-- R170: on a low clock RX_EDGE takes the sampled bit. -/
theorem rxEdge_low {s : State} (h : s.clk = false) : s.rxEdge = State.rxBit s.dat { s with rxPending := false } :=
  if_neg (by simp [h])

/-- R162. -/
theorem rxBit_start {s : State} (d : Bool) (h : s.rxPos = 0) :
    s.rxBit d = if d then s.rxFail .start else { s with rxPos := 1 } := if_pos h

/-- R163. -/
theorem rxBit_data {s : State} (d : Bool) (h0 : s.rxPos ≠ 0) (h8 : s.rxPos.val ≤ 8) :
    s.rxBit d =
      { s with rxAcc := accNext s.rxAcc d, rxPar := parityNext s.rxPar d, rxPos := s.rxPos + 1 } := by
  unfold State.rxBit; rw [if_neg h0, if_pos h8]

/-- R164. -/
theorem rxBit_parity {s : State} (d : Bool) (h : s.rxPos = 9) :
    s.rxBit d = if d = s.rxPar then { s with rxPos := 10 } else s.rxFail .parity := by
  unfold State.rxBit; rw [if_neg (by rw [h]; decide), if_neg (by rw [h]; decide), if_pos h]

/-- R165. -/
theorem rxBit_stop {s : State} (d : Bool) (h : s.rxPos = 10) :
    s.rxBit d = if d then (s.mbPush s.rxAcc).rxIdle else s.rxFail .stop := by
  unfold State.rxBit
  rw [if_neg (by rw [h]; decide), if_neg (by rw [h]; decide), if_neg (by rw [h]; decide)]

/-- R320: what the interrupt context may write: the receiver's registers, the mailbox and `err`. -/
theorem rxBit_eq (d : Bool) (s : State) : ∃ p a r m e, s.rxBit d =
    { s with rxPos := p, rxAcc := a, rxPar := r, mb := m, err := e } ∧
    (m = s.mb ∨ m = mailboxPush s.mb s.rxAcc) ∧ (e = s.err ∨ ∃ c : LinkError, e = c.code) := by
  unfold State.rxBit
  split
  · split
    · exact ⟨_, _, _, s.mb, _, rfl, .inl rfl, .inr ⟨.start, rfl⟩⟩
    · exact ⟨_, s.rxAcc, s.rxPar, s.mb, s.err, rfl, .inl rfl, .inl rfl⟩
  split
  · exact ⟨_, _, _, s.mb, s.err, rfl, .inl rfl, .inl rfl⟩
  split
  · split
    · exact ⟨_, s.rxAcc, s.rxPar, s.mb, s.err, rfl, .inl rfl, .inl rfl⟩
    · exact ⟨_, _, _, s.mb, _, rfl, .inl rfl, .inr ⟨.parity, rfl⟩⟩
  · split
    · exact ⟨_, _, _, _, s.err, rfl, .inr rfl, .inl rfl⟩
    · exact ⟨_, _, _, s.mb, _, rfl, .inl rfl, .inr ⟨.stop, rfl⟩⟩

/-- R320: the same of the whole of RX_EDGE. -/
theorem rxEdge_eq (s : State) : ∃ p a r m e, s.rxEdge =
    { s with rxPending := false, rxPos := p, rxAcc := a, rxPar := r, mb := m, err := e } ∧
    (m = s.mb ∨ m = mailboxPush s.mb s.rxAcc) ∧ (e = s.err ∨ ∃ c : LinkError, e = c.code) := by
  unfold State.rxEdge
  split
  · exact ⟨s.rxPos, s.rxAcc, s.rxPar, s.mb, s.err, rfl, .inl rfl, .inl rfl⟩
  · exact rxBit_eq s.dat { s with rxPending := false }

/-! ## The transmitter -/

/-- R182, R183: an operation of one phase runs there, and there alone. -/
theorem inPhase_eq {s : State} {p : TxPhase} (t : State) (h : s.txPhase = p) : s.inPhase p t = .next t := if_pos h

theorem inPhase_next {s t u : State} {p : TxPhase} (h : s.inPhase p u = .next t) : s.txPhase = p ∧ t = u := by
  unfold State.inPhase at h
  split at h <;> cases h
  exact ⟨by assumption, rfl⟩

/-- R183: a wait takes its success step, or aborts at the deadline, or stays. -/
theorem txWait_cond {s : State} (t : State) : s.txWait true t = t := rfl

theorem txWait_late {s : State} (t : State) (h : s.txDeadline ≤ s.now) : s.txWait false t = s.txAbort := by
  unfold State.txWait; simp [h]

theorem txWait_stay {s : State} (t : State) (h : s.now < s.txDeadline) : s.txWait false t = s := by
  unfold State.txWait; simp [h]

theorem txWait_cases (s t : State) (c : Bool) :
    (c = true ∧ s.txWait c t = t) ∨ (c = false ∧ s.txDeadline ≤ s.now ∧ s.txWait c t = s.txAbort) ∨
    (c = false ∧ s.now < s.txDeadline ∧ s.txWait c t = s) := by
  cases c
  · by_cases h : s.txDeadline ≤ s.now
    · exact .inr (.inl ⟨rfl, h, txWait_late t h⟩)
    · exact .inr (.inr ⟨rfl, by omega, txWait_stay t (by omega)⟩)
  · exact .inl ⟨rfl, rfl⟩

/-! ## The session controller, the translator, the scroll emulator -/

/-- R214: inside the table a ping byte is sent. -/
theorem sendPing_eq {s : State} {i : Nat} {b : Byte} (h : pingRead s.par i = some b) :
    s.sendPing i = .next (s.callSendCmd b) := by
  unfold State.sendPing; rw [h]

/-- R71: outside the table there is nothing to read. -/
theorem sendPing_none {s : State} {i : Nat} (h : pingRead s.par i = none) : s.sendPing i = .fault .pingIndex := by
  unfold State.sendPing; rw [h]

/-- R71: a table of seventeen bytes has one at each index. -/
theorem pingRead_some {p : Params} (h : p.ping.length = pingLen) {i : Nat} (hi : i < pingLen) :
    ∃ b, pingRead p i = some b := by
  unfold pingRead; rw [if_pos hi]; exact ⟨_, List.getElem?_eq_getElem (h ▸ hi)⟩

/-- R267: a motion event goes out unless the host is suspended. -/
theorem emitMove_cases (s : State) (dx dy dz : Int) :
    (s.hostSuspended = true ∧ s.emitMove dx dy dz = s) ∨
    (s.hostSuspended = false ∧ s.emitMove dx dy dz = { s with hostOut := s.hostOut ++ [.move dx dy dz] }) := by
  unfold State.emitMove
  split
  · exact .inl ⟨by assumption, rfl⟩
  · rename_i h
    exact .inr ⟨by simpa using h, rfl⟩

/-- R262: SE_STEP writes the accumulator and appends at most one event. -/
theorem emitMove_eq (s : State) (dx dy dz : Int) : ∃ es, s.emitMove dx dy dz = { s with hostOut := s.hostOut ++ es } := by
  rcases emitMove_cases s dx dy dz with ⟨-, h⟩ | ⟨-, h⟩
  · exact ⟨[], by rw [h, List.append_nil]⟩
  · exact ⟨_, h⟩

theorem scrollHeld_eq (s : State) (dy : Int) :
    ∃ a es, s.scrollHeld dy = { s with scrollAcc := a, hostOut := s.hostOut ++ es } := by
  unfold State.scrollHeld
  split <;> unfold State.scrollTick <;> split
  · exact ⟨_, [], by rw [List.append_nil]⟩
  · obtain ⟨es, h⟩ := emitMove_eq { s with scrollAcc := s.scrollAcc + dy } 0 0 (tdiv (s.scrollAcc + dy) scrollDiv)
    exact ⟨0, es, by rw [h]⟩
  · exact ⟨s.scrollAcc, [], by rw [List.append_nil]⟩
  · obtain ⟨es, h⟩ := emitMove_eq s 0 0 (tdiv dy scrollDiv)
    exact ⟨0, es, by rw [h]⟩

theorem scrollFree_eq (s : State) (dx dy : Int) :
    ∃ es, s.scrollFree dx dy = { s with scrollAcc := 0, hostOut := s.hostOut ++ es } := by
  unfold State.scrollFree
  split
  · exact emitMove_eq { s with scrollAcc := 0 } dx dy 0
  · exact ⟨[], by rw [List.append_nil]⟩

end Sys2Proof.Machine
end

