-- ==== Sys2Proof/Laws/PerInstr.lean ====
section
/-! SUPPORT. Statements made of every operation, one lemma per constructor: the shape of its operation word. -/

namespace Sys2Proof.Laws.EncodeShape

open Sys2Proof Sys2Proof.Machine

/-- A well-formed operation's word fits in its eight bytes, and its top byte is one of the seven formats (log 6). -/
def Statement (i : Instr) : Prop := i.wf = true → encodeWord i < 2 ^ 64 ∧ encodeWord i / 2 ^ 56 < 7

/-- The word of format `f`, code `c` and operand bytes `o`. -/
theorem opWord_shape {f c o : Nat} (hf : f < 7) (hc : c < 256) (ho : o < 2 ^ 48) :
    opWord f c o < 2 ^ 64 ∧ opWord f c o / 2 ^ 56 < 7 := by
  unfold opWord; omega

/-- The word of format `f` around a value that leaves the format byte free. -/
theorem value_shape {f v : Nat} (hf : f < 7) (hv : v < 2 ^ 56) :
    v + 2 ^ 56 * f < 2 ^ 64 ∧ (v + 2 ^ 56 * f) / 2 ^ 56 < 7 := by
  omega

theorem buttonsNat_lt (b : Buttons) : buttonsNat b < 16 := by
  rcases b with ⟨_ | _, _ | _, _ | _, _ | _⟩ <;> decide

theorem frameNat_lt : ∀ (d : Byte) (p : Bool), frameNat d p < 2 ^ 11 := by decide

theorem reportNat_lt (r : Report) : reportNat r < 2 ^ 24 := by
  have h0 := r.b0.isLt
  have h1 := r.b1.isLt
  have h2 := r.b2.isLt
  unfold reportNat; omega

theorem mbPush (v : Byte) : Statement (.mbPush v) :=
  fun _ => opWord_shape (by decide) (by decide) (by have := v.isLt; omega)

theorem mbPull : Statement .mbPull := fun _ => opWord_shape (by decide) (by decide) (by decide)

theorem mbEmpty : Statement .mbEmpty := fun _ => opWord_shape (by decide) (by decide) (by decide)

theorem mbReset : Statement .mbReset := fun _ => opWord_shape (by decide) (by decide) (by decide)

theorem rxEdge : Statement .rxEdge := fun _ => opWord_shape (by decide) (by decide) (by decide)

theorem rxReset : Statement .rxReset := fun _ => opWord_shape (by decide) (by decide) (by decide)

theorem txStart (b : Byte) : Statement (.txStart b) :=
  fun _ => opWord_shape (by decide) (by decide) (by have := b.isLt; omega)

theorem txReq1 : Statement .txReq1 := fun _ => opWord_shape (by decide) (by decide) (by decide)

theorem txReq2 : Statement .txReq2 := fun _ => opWord_shape (by decide) (by decide) (by decide)

theorem txReq3 : Statement .txReq3 := fun _ => opWord_shape (by decide) (by decide) (by decide)

theorem txWaitDev : Statement .txWaitDev := fun _ => opWord_shape (by decide) (by decide) (by decide)

theorem txBitSet : Statement .txBitSet := fun _ => opWord_shape (by decide) (by decide) (by decide)

theorem txBitHi : Statement .txBitHi := fun _ => opWord_shape (by decide) (by decide) (by decide)

theorem txBitLo : Statement .txBitLo := fun _ => opWord_shape (by decide) (by decide) (by decide)

theorem txStop : Statement .txStop := fun _ => opWord_shape (by decide) (by decide) (by decide)

theorem txWaitAck : Statement .txWaitAck := fun _ => opWord_shape (by decide) (by decide) (by decide)

theorem txDone : Statement .txDone := fun _ => opWord_shape (by decide) (by decide) (by decide)

theorem txAbort : Statement .txAbort := fun _ => opWord_shape (by decide) (by decide) (by decide)

theorem xdDecode : Statement .xdDecode := fun _ => opWord_shape (by decide) (by decide) (by decide)

theorem rtTranslate : Statement .rtTranslate := fun _ => opWord_shape (by decide) (by decide) (by decide)

theorem rtEdges (vis : Buttons) : Statement (.rtEdges vis) :=
  fun _ => opWord_shape (by decide) (by decide) (by have := buttonsNat_lt vis; omega)

theorem seStep (btn : Buttons) (dx dy : Int) : Statement (.seStep btn dx dy) :=
  fun _ => opWord_shape (by decide) (by decide)
    (by have := buttonsNat_lt btn; have := (u8 dx).isLt; have := (u8 (-dy)).isLt; omega)

theorem itRealEvent (a : Bool) : Statement (.itRealEvent a) :=
  fun _ => opWord_shape (by decide) (by decide) (by cases a <;> decide)

theorem itStep : Statement .itStep := fun _ => opWord_shape (by decide) (by decide) (by decide)

theorem mlIterBegin : Statement .mlIterBegin := fun _ => opWord_shape (by decide) (by decide) (by decide)

theorem mlRecover : Statement .mlRecover := fun _ => opWord_shape (by decide) (by decide) (by decide)

theorem mlHeartbeat : Statement .mlHeartbeat := fun _ => opWord_shape (by decide) (by decide) (by decide)

theorem mlCheck : Statement .mlCheck := fun _ => opWord_shape (by decide) (by decide) (by decide)

theorem mbWait (t : Nat) : Statement (.mbWait t) :=
  fun h => opWord_shape (by decide) (by decide) (by have := of_decide_eq_true h; omega)

theorem txSend (b : Byte) : Statement (.txSend b) :=
  fun _ => opWord_shape (by decide) (by decide) (by have := b.isLt; omega)

theorem sendCmd (b : Byte) (t : Nat) : Statement (.sendCmd b t) :=
  fun h => opWord_shape (by decide) (by decide)
    (by have := of_decide_eq_true h; have := b.isLt; omega)

theorem bringUp : Statement .bringUp := fun _ => opWord_shape (by decide) (by decide) (by decide)

theorem ssReset : Statement .ssReset := fun _ => opWord_shape (by decide) (by decide) (by decide)

theorem ssRate : Statement .ssRate := fun _ => opWord_shape (by decide) (by decide) (by decide)

theorem ssMode : Statement .ssMode := fun _ => opWord_shape (by decide) (by decide) (by decide)

theorem ssPing (i : Nat) : Statement (.ssPing i) :=
  fun h => opWord_shape (by decide) (by decide)
    (by have : i < 17 := of_decide_eq_true h; omega)

theorem ssEnable : Statement .ssEnable := fun _ => opWord_shape (by decide) (by decide) (by decide)

theorem getReport : Statement .getReport := fun _ => opWord_shape (by decide) (by decide) (by decide)

theorem processReport : Statement .processReport := fun _ => opWord_shape (by decide) (by decide) (by decide)

theorem loopIteration : Statement .loopIteration := fun _ => opWord_shape (by decide) (by decide) (by decide)

theorem busStop : Statement .busStop := fun _ => opWord_shape (by decide) (by decide) (by decide)

theorem reset : Statement .reset := fun _ => opWord_shape (by decide) (by decide) (by decide)

theorem frame (d : Byte) (p : Bool) : Statement (.frame d p) :=
  fun _ => value_shape (by decide) (by have := frameNat_lt d p; omega)

theorem cmdReset : Statement .cmdReset := fun _ => opWord_shape (by decide) (by decide) (by decide)

theorem cmdEnable : Statement .cmdEnable := fun _ => opWord_shape (by decide) (by decide) (by decide)

theorem cmdDisable : Statement .cmdDisable := fun _ => opWord_shape (by decide) (by decide) (by decide)

theorem cmdSetRate : Statement .cmdSetRate := fun _ => opWord_shape (by decide) (by decide) (by decide)

theorem cmdSetRemote : Statement .cmdSetRemote := fun _ => opWord_shape (by decide) (by decide) (by decide)

theorem cmdSetStream : Statement .cmdSetStream := fun _ => opWord_shape (by decide) (by decide) (by decide)

theorem cmdReadData : Statement .cmdReadData := fun _ => opWord_shape (by decide) (by decide) (by decide)

theorem cmdStatus : Statement .cmdStatus := fun _ => opWord_shape (by decide) (by decide) (by decide)

theorem rspAck : Statement .rspAck := fun _ => opWord_shape (by decide) (by decide) (by decide)

theorem rspSelftestOk : Statement .rspSelftestOk := fun _ => opWord_shape (by decide) (by decide) (by decide)

theorem rspDeviceId : Statement .rspDeviceId := fun _ => opWord_shape (by decide) (by decide) (by decide)

theorem report (r : Report) : Statement (.report r) :=
  fun _ => value_shape (by decide) (by have := reportNat_lt r; omega)

theorem extPacket (r : Report) : Statement (.extPacket r) :=
  fun _ => value_shape (by decide) (by have := reportNat_lt r; omega)

theorem extAuxbtn (r : Report) : Statement (.extAuxbtn r) :=
  fun _ => value_shape (by decide) (by have := reportNat_lt r; omega)

theorem ping00 : Statement .ping00 := fun _ => opWord_shape (by decide) (by decide) (by decide)

theorem ping01 : Statement .ping01 := fun _ => opWord_shape (by decide) (by decide) (by decide)

theorem ping02 : Statement .ping02 := fun _ => opWord_shape (by decide) (by decide) (by decide)

theorem ping03 : Statement .ping03 := fun _ => opWord_shape (by decide) (by decide) (by decide)

theorem ping04 : Statement .ping04 := fun _ => opWord_shape (by decide) (by decide) (by decide)

theorem ping05 : Statement .ping05 := fun _ => opWord_shape (by decide) (by decide) (by decide)

theorem ping06 : Statement .ping06 := fun _ => opWord_shape (by decide) (by decide) (by decide)

theorem ping07 : Statement .ping07 := fun _ => opWord_shape (by decide) (by decide) (by decide)

theorem ping08 : Statement .ping08 := fun _ => opWord_shape (by decide) (by decide) (by decide)

theorem ping09 : Statement .ping09 := fun _ => opWord_shape (by decide) (by decide) (by decide)

theorem ping10 : Statement .ping10 := fun _ => opWord_shape (by decide) (by decide) (by decide)

theorem ping11 : Statement .ping11 := fun _ => opWord_shape (by decide) (by decide) (by decide)

theorem ping12 : Statement .ping12 := fun _ => opWord_shape (by decide) (by decide) (by decide)

theorem ping13 : Statement .ping13 := fun _ => opWord_shape (by decide) (by decide) (by decide)

theorem ping14 : Statement .ping14 := fun _ => opWord_shape (by decide) (by decide) (by decide)

theorem ping15 : Statement .ping15 := fun _ => opWord_shape (by decide) (by decide) (by decide)

theorem ping16 : Statement .ping16 := fun _ => opWord_shape (by decide) (by decide) (by decide)

end Sys2Proof.Laws.EncodeShape
end

