-- ==== Sys2Proof/Laws/Codec.lean ====
section
/-! SUPPORT. The fields of an operation word: decoding the word of a format reads its code and its operand bytes, and each field is read back as it was written. -/

namespace Sys2Proof

open Sys2Proof.Machine

/-- Decoding the eight bytes of a word that fits in them is decoding the word. -/
theorem decode_encode_eq {i : Instr} (h : encodeWord i < 2 ^ 64) : decode (encode i) = decodeWord (encodeWord i) := by
  unfold decode encode
  rw [leBytes_length, if_pos rfl, leNat_leBytes, Nat.mod_eq_of_lt (by simpa using h)]

theorem decodeWord_op {c o : Nat} (hc : c < 256) (ho : o < 2 ^ 48) : decodeWord (opWord 0 c o) = decodeOp c o := by
  unfold decodeWord opWord
  rw [show (c + 256 * o + 2 ^ 56 * 0) / 2 ^ 56 = 0 by omega, show (c + 256 * o + 2 ^ 56 * 0) % 256 = c by omega,
    show (c + 256 * o + 2 ^ 56 * 0) / 256 = o by omega]
  rfl

theorem decodeWord_frame {v : Nat} (hv : v < 2 ^ 56) : decodeWord (v + 2 ^ 56 * 1) = decodeFrame v := by
  unfold decodeWord
  rw [show (v + 2 ^ 56 * 1) / 2 ^ 56 = 1 by omega, show (v + 2 ^ 56 * 1) % 2 ^ 56 = v by omega]
  rfl

theorem decodeWord_report {v : Nat} (hv : v < 2 ^ 56) : decodeWord (v + 2 ^ 56 * 2) = decodeReport v := by
  unfold decodeWord
  rw [show (v + 2 ^ 56 * 2) / 2 ^ 56 = 2 by omega, show (v + 2 ^ 56 * 2) % 2 ^ 56 = v by omega]
  rfl

theorem decodeWord_ext {v : Nat} (hv : v < 2 ^ 56) : decodeWord (v + 2 ^ 56 * 3) = decodeExt v := by
  unfold decodeWord
  rw [show (v + 2 ^ 56 * 3) / 2 ^ 56 = 3 by omega, show (v + 2 ^ 56 * 3) % 2 ^ 56 = v by omega]
  rfl

theorem natButtons_buttonsNat (b : Buttons) : natButtons (buttonsNat b) = b := by
  rcases b with ⟨_ | _, _ | _, _ | _, _ | _⟩ <;> decide

/-- R101: the data bits of a frame are read back as they were written; its start is 0 and its stop 1. -/
theorem natFrameData_frameNat : ∀ (d : Byte) (p : Bool), natFrameData (frameNat d p) = d ∧
    (frameNat d p).testBit 10 = false ∧ (frameNat d p).testBit 0 = true ∧ (frameNat d p).testBit 1 = p := by decide

theorem natReport_reportNat (r : Report) : natReport (reportNat r) = r := by
  obtain ⟨a, b, c⟩ := r
  have ha := a.isLt
  have hb := b.isLt
  have hc := c.isLt
  unfold natReport reportNat
  simp only [Report.mk.injEq]
  refine ⟨?_, ?_, ?_⟩ <;> (apply BitVec.eq_of_toNat_eq; rw [BitVec.toNat_ofNat]; omega)

/-- R14: a signed byte survives being written as a byte. -/
theorem sext8_u8 {x : Int} (h1 : -128 ≤ x) (h2 : x ≤ 127) : sext8 (u8 x) = x := by
  unfold sext8 u8
  rw [BitVec.toInt_ofInt]
  exact Int.bmod_eq_of_le (by simpa using h1) (by simp; omega)

end Sys2Proof
end

