-- ==== Sys2Proof/Laws/Invariant.lean ====
section
/-! SUPPORT. What each shared operation does to the invariants of Safety.lean: one lemma per operation, so that a proof about a step never unfolds one. -/

namespace Sys2Proof.Machine

open Sys2Proof Sys2Proof.Config

/-! ## The receiver's registers -/

theorem RxInv.rest {s : State} (_h0 : s.rxPos = 0) (h1 : s.rxAcc = 0) (h2 : s.rxPar = true) : RxInv s :=
  ⟨by rw [h1, h2]; decide, fun _ => by rw [h1]; simp, fun _ => h1⟩

theorem RxInv.congr {s t : State} (h : RxInv s) (h0 : t.rxPos = s.rxPos) (h1 : t.rxAcc = s.rxAcc)
    (h2 : t.rxPar = s.rxPar) : RxInv t :=
  ⟨by rw [h1, h2]; exact h.parity, by rw [h0, h1]; exact h.empty, by rw [h0, h1]; exact h.idle⟩

/-- R162 to R167: taking a bit keeps them in agreement. -/
theorem RxInv.rxBit {s : State} (d : Bool) (h : RxInv s) : RxInv (s.rxBit d) := by
  unfold State.rxBit
  split
  · rename_i h0
    have ha := h.idle h0
    split
    · exact .rest rfl rfl rfl
    · exact ⟨h.parity, fun _ => by simp [ha], fun _ => ha⟩
  split
  · rename_i h0 h8
    have hpos : 1 ≤ s.rxPos.val := by
      have : s.rxPos.val ≠ 0 := fun hh => h0 (Fin.ext hh)
      omega
    have he := h.empty h8
    have hv : (s.rxPos + 1).val = s.rxPos.val + 1 := by
      rw [Fin.val_add]; simp; omega
    have hev : s.rxAcc.toNat % 2 = 0 := by
      have : (2 : Nat) ∣ 2 ^ (9 - s.rxPos.val) := dvd_pow_self 2 (by omega)
      have h2 := Nat.dvd_trans this (Nat.dvd_of_mod_eq_zero he)
      omega
    refine ⟨?_, ?_, ?_⟩
    · simp only [parityNext]; rw [oddpar_accNext _ _ hev, ← h.parity]
    · intro hle
      simp only [hv] at hle ⊢
      rw [accNext_toNat]
      generalize s.rxPos.val = k at *
      have hb := s.rxAcc.isLt
      clear hv h h0
      have : k = 1 ∨ k = 2 ∨ k = 3 ∨ k = 4 ∨ k = 5 ∨ k = 6 ∨ k = 7 := by omega
      rcases this with rfl | rfl | rfl | rfl | rfl | rfl | rfl <;> cases d <;> simp at he ⊢ <;> omega
    · intro hh
      have := congrArg Fin.val hh
      simp only [hv] at this
      simp at this
  split
  · split
    · exact ⟨h.parity, fun hle => by simp at hle, fun hh => by simp at hh⟩
    · exact .rest rfl rfl rfl
  · split <;> exact .rest rfl rfl rfl

/-! ## The invariant every step keeps -/

/-- A change of other fields keeps it. -/
theorem Inv.frame {s t : State} (h : Inv s) (mb : t.mb = s.mb) (p0 : t.rxPos = s.rxPos) (p1 : t.rxAcc = s.rxAcc)
    (p2 : t.rxPar = s.rxPar) (pe : t.rxPending = s.rxPending) (ie : t.rxIe = s.rxIe) (cp : t.clkPrev = s.clkPrev)
    (hc : t.hClk = s.hClk) (dc : t.dClk = s.dClk) (ph : t.txPhase = s.txPhase) (sc : t.scrollAcc = s.scrollAcc)
    (jn : t.jigN = s.jigN) (hn : t.hbN = s.hbN) (pa : t.par = s.par) (tl : t.tLast = s.tLast) (th : t.tHb = s.tHb)
    (nw : t.now = s.now) (er : t.err = s.err) : Inv t where
  mailbox := mb ▸ h.mailbox
  rx := h.rx.congr p0 p1 p2
  pending := by rw [pe, ie]; exact h.pending
  level := by rw [cp, h.level]; simp [State.clk, hc, dc]
  exclusion := by rw [ph, ie, p0]; exact h.exclusion
  scroll := by rw [sc]; exact h.scroll
  nudges := by rw [jn, pa]; exact h.nudges
  beats := by rw [hn, pa]; exact h.beats
  times := by rw [tl, th, nw]; exact h.times
  codes := by rw [er]; exact h.codes

theorem Inv.call {s : State} (h : Inv s) (ts : List Task) : Inv (s.call ts) := by apply h.frame <;> rfl

theorem Inv.returning {s : State} (h : Inv s) (r : Ret) : Inv (s.returning r) := by apply h.frame <;> rfl

theorem Inv.emit {s : State} (h : Inv s) (es : List Event) : Inv (s.emit es) := by apply h.frame <;> rfl

theorem Inv.raise {s : State} (h : Inv s) (e : LinkError) : Inv (s.raise e) :=
  { h with codes := code_le e, rx := h.rx.congr rfl rfl rfl }

theorem Inv.raiseDesync {s : State} (h : Inv s) (e : LinkError) : Inv (s.raiseDesync e) :=
  { h with codes := code_le e, rx := h.rx.congr rfl rfl rfl }

theorem Inv.edgeDetect {s : State} (h : Inv { s with clkPrev := s.clk }) : Inv s.edgeDetect :=
  { h with
    rx := h.rx.congr rfl rfl rfl
    pending := fun hp => by
      have := h.pending
      simp at hp this ⊢
      rcases hp with hp | hp
      · exact this hp
      · exact hp.2
    level := rfl }

theorem Inv.clkDrives {s : State} (h : Inv s) (a b : Drive) :
    Inv { s with hClk := a, dClk := b, clkPrev := wiredAnd a b } :=
  { h with rx := h.rx.congr rfl rfl rfl, level := rfl }

theorem Inv.drvClk {s : State} (h : Inv s) (x : Drive) : Inv (s.drvClk x) :=
  Inv.edgeDetect (s := { s with hClk := x }) (h.clkDrives x s.dClk)

theorem Inv.devClk {s : State} (h : Inv s) (x : Drive) : Inv (s.devClk x) :=
  Inv.edgeDetect (s := { s with dClk := x }) (h.clkDrives s.hClk x)

theorem Inv.drvDat {s : State} (h : Inv s) (x : Drive) : Inv (s.drvDat x) := by apply h.frame <;> rfl

theorem Inv.devDat {s : State} (h : Inv s) (x : Drive) : Inv (s.devDat x) := by apply h.frame <;> rfl

theorem Inv.busStop {s : State} (h : Inv s) : Inv s.busStop := (h.drvClk _).drvDat _

theorem Inv.phaseOff {s : State} (h : Inv s) : Inv { s with txPhase := .off } :=
  { h with rx := h.rx.congr rfl rfl rfl, exclusion := fun hh => absurd rfl hh }

theorem Inv.phase {s : State} (h : Inv s) (p : TxPhase) (hp : s.txPhase ≠ .off) : Inv { s with txPhase := p } :=
  { h with rx := h.rx.congr rfl rfl rfl, exclusion := fun _ => h.exclusion hp }

theorem Inv.rxReset {s : State} (h : Inv s) : Inv s.rxReset :=
  { h with rx := .rest rfl rfl rfl, pending := by simp, exclusion := fun hp => ⟨(h.exclusion hp).1, rfl⟩ }

theorem Inv.rxIeOff {s : State} (h : Inv s) : Inv (s.setRxIe false) :=
  { h with rx := h.rx.congr rfl rfl rfl, pending := by simp, exclusion := fun hp => ⟨rfl, (h.exclusion hp).2⟩ }

theorem Inv.pendingOff {s : State} (h : Inv s) : Inv { s with rxPending := false } :=
  { h with rx := h.rx.congr rfl rfl rfl, pending := by simp }

theorem Inv.mbPull {s : State} (h : Inv s) : Inv s.mbPull :=
  { h with rx := h.rx.congr rfl rfl rfl, mailbox := by have := h.mailbox; simp; omega }

theorem Inv.mbPush {s : State} (h : Inv s) (v : Byte) : Inv (s.mbPush v) :=
  { h with rx := h.rx.congr rfl rfl rfl, mailbox := mailboxPush_length _ _ h.mailbox }

theorem Inv.mbReset {s : State} (h : Inv s) : Inv s.mbReset :=
  { h with rx := h.rx.congr rfl rfl rfl, mailbox := by simp }

theorem Inv.errClear {s : State} (h : Inv s) : Inv { s with err := 0 } :=
  { h with rx := h.rx.congr rfl rfl rfl, codes := by simp }

theorem Inv.takeRecovery {s : State} (h : Inv s) : Inv s.takeRecovery :=
  h.rxIeOff.rxReset.busStop.errClear.mbReset

theorem Inv.txAbort {s : State} (h : Inv s) : Inv s.txAbort := ((h.busStop.raise _).phaseOff).returning _

theorem Inv.txWait {s t : State} (h : Inv s) (c : Bool) (ht : Inv t) : Inv (s.txWait c t) := by
  rcases txWait_cases s t c with ⟨-, e⟩ | ⟨-, -, e⟩ | ⟨-, -, e⟩ <;> rw [e]
  · exact ht
  · exact h.txAbort
  · exact h

theorem Inv.rxBit {s : State} (h : Inv s) (hie : s.rxIe = true) (d : Bool) : Inv (s.rxBit d) := by
  have hrx := h.rx.rxBit d
  obtain ⟨p, a, r, m, e, eq, hm, he⟩ := rxBit_eq d s
  rw [eq] at hrx ⊢
  refine { h with rx := hrx, mailbox := ?_, exclusion := fun hp => ?_, codes := ?_ }
  · show m.length ≤ mbCap
    rcases hm with hm | hm <;> rw [hm]
    · exact h.mailbox
    · exact mailboxPush_length _ _ h.mailbox
  · have := (h.exclusion hp).1
    rw [hie] at this
    cases this
  · show e.toNat ≤ 7
    rcases he with he | ⟨c, he⟩ <;> rw [he]
    · exact h.codes
    · exact code_le c

theorem Inv.rxEdge {s : State} (h : Inv s) (hie : s.rxIe = true) : Inv s.rxEdge := by
  unfold State.rxEdge
  split
  · exact h.pendingOff
  · exact Inv.rxBit (s := { s with rxPending := false }) h.pendingOff hie _

theorem Inv.serveEdge {s : State} (h : Inv s) : Inv s.serveEdge := by
  unfold State.serveEdge
  split
  · rename_i hh
    unfold State.rxEnabled at hh
    simp at hh
    exact h.rxEdge hh.1
  · exact h

theorem Inv.devBits {s : State} (h : Inv s) (bits : List Bool) : Inv (s.devBits bits) := by
  have fold : ∀ (bs : List Bool) (s : State), Inv s → Inv (bs.foldl State.devBit s) := by
    intro bs
    induction bs with
    | nil => exact fun s h => h
    | cons b bs ih => exact fun s h => ih _ (((h.devClk _).devDat _).devClk _).serveEdge
  exact ((fold bits s h).devClk _).devDat _

theorem Inv.emitMove {s : State} (h : Inv s) (dx dy dz : Int) : Inv (s.emitMove dx dy dz) := by
  obtain ⟨es, e⟩ := emitMove_eq s dx dy dz
  rw [e]
  apply h.frame <;> rfl

/-- R262, R264: the accumulator after a Report with the scroll role held stays in -7..7. -/
theorem Inv.scrollHeld {s : State} (h : Inv s) (dy : Int) : Inv (s.scrollHeld dy) := by
  obtain ⟨a, es, e⟩ := scrollHeld_eq s dy
  have ha : -7 ≤ a ∧ a ≤ 7 := by
    have hacc : (s.scrollHeld dy).scrollAcc = a := by rw [e]
    rw [← hacc]
    unfold State.scrollHeld
    split <;> unfold State.scrollTick <;> split
    · exact tdiv_eq_zero ‹_›
    · simp
    · exact h.scroll
    · simp
  rw [e]
  exact { h with rx := h.rx.congr rfl rfl rfl, scroll := ha }

theorem Inv.scrollFree {s : State} (h : Inv s) (dx dy : Int) : Inv (s.scrollFree dx dy) := by
  obtain ⟨es, e⟩ := scrollFree_eq s dx dy
  rw [e]
  exact { h with rx := h.rx.congr rfl rfl rfl, scroll := by simp }

/-! ## The control stack -/

theorem ctlOk_tail_op {i : Instr} {rest : List Task} (h : ctlOk (.op i :: rest) = true) : ctlOk rest = true := by
  unfold ctlOk at h
  split at h
  · rename_i e; cases e
  · rename_i e; cases e; simpa [ctlOk] using h
  · rename_i e; cases e; simp [ctlOk] at h ⊢; exact ⟨by decide, h⟩
  · rename_i e; cases e; simp at h; exact h.2
  all_goals (rename_i e; cases e)

theorem ctlOk_op {i : Instr} {rest : List Task} (hi : Instr.ofLoop i = true) (h : ctlOk rest = true) :
    ctlOk (.op i :: rest) = true := by
  unfold ctlOk
  split
  · rename_i e; cases e
  · rename_i e; cases e; simp [Instr.ofLoop] at hi
  · rename_i e; cases e; simp [Instr.ofLoop] at hi
  · rename_i e; cases e; simp [hi, h]
  all_goals (rename_i e; cases e)

theorem ctlOk_k {c : Cont} {rest : List Task} (hc : c ≠ .busStopDat) (h : ctlOk rest = true) :
    ctlOk (.k c :: rest) = true := by
  cases c <;> first | exact absurd rfl hc | exact h

theorem ctlOk_tail_k {c : Cont} {rest : List Task} (h : ctlOk (.k c :: rest) = true) :
    ctlOk rest = true ∧ c ≠ .busStopDat := by
  cases c <;> first | exact ⟨h, by simp⟩ | (simp [ctlOk] at h)

theorem ctlFed_tail {x : Task} {rest : List Task} (h : ctlFed (x :: rest) = true) : ctlFed rest = true := by
  simp [ctlFed] at h
  exact h.2

/-- What takes an entry's place feeds what the entry fed, if its last entry gives what the entry gave. -/
theorem ctlFed_replace {x l : Task} {ts rest : List Task} (h : ctlFed (x :: rest) = true)
    (hts : ctlFed (ts ++ [l]) = true) (hs : x.startsSend = true → l.startsSend = true)
    (hg : x.givesStatus = true → l.givesStatus = true) : ctlFed ((ts ++ [l]) ++ rest) = true := by
  induction ts with
  | nil =>
    cases rest with
    | nil => simp [ctlFed]
    | cons y rest =>
      simp only [List.nil_append, List.singleton_append, ctlFed, Bool.and_eq_true] at h ⊢
      refine ⟨?_, h.2⟩
      have h1 := h.1
      cases y <;> simp only [Task.feeds, Bool.or_eq_true] at h1 ⊢
      · exact hs h1
      · exact h1.imp id hg
  | cons t ts ih =>
    have := ih (ctlFed_tail hts)
    cases ts <;> simp_all [ctlFed]

end Sys2Proof.Machine
end

