-- ==== Sys2Proof/Laws/Memory.lean ====
section
/-! SUPPORT. The slots of the mailbox's reference representation: reading after writing, the canonical form kept by every operation, and held at reset. -/

namespace Sys2Proof.Machine

open Sys2Proof Sys2Proof.Config

/-- A read where a byte has just been written gives that byte. -/
theorem memRead_memWrite_same (m : Memory) (a : Nat) (v : Byte) : memRead (memWrite m a v) a = some v := by
  induction m with
  | nil => simp [memWrite, memRead]
  | cons x m ih =>
    obtain ⟨b, w⟩ := x
    unfold memWrite
    split
    · simp [memRead]
    split
    · simp [memRead]
    · rename_i h
      simp [memRead, h, ih]

/-- A write leaves every other address alone. -/
theorem memRead_memWrite_other (m : Memory) {a c : Nat} (v : Byte) (h : c ≠ a) :
    memRead (memWrite m a v) c = memRead m c := by
  induction m with
  | nil => simp [memWrite, memRead, h]
  | cons x m ih =>
    obtain ⟨b, w⟩ := x
    unfold memWrite
    split
    · simp [memRead, h]
    split
    · rename_i hb
      subst hb
      simp [memRead, h]
    · simp [memRead, ih]

/-- An address of a written memory is the written one or one that was there. -/
theorem mem_memWrite {m : Memory} {a : Nat} {v : Byte} {x : Host.Cell} (h : x ∈ memWrite m a v) :
    x.1 = a ∨ x ∈ m := by
  induction m with
  | nil => simp [memWrite] at h; exact .inl (by rw [h])
  | cons y m ih =>
    obtain ⟨b, w⟩ := y
    unfold memWrite at h
    split at h
    · rcases List.mem_cons.mp h with h | h
      · exact .inl (by rw [h])
      · exact .inr h
    split at h
    · rcases List.mem_cons.mp h with h | h
      · exact .inl (by rw [h])
      · exact .inr (List.mem_cons_of_mem _ h)
    · rcases List.mem_cons.mp h with h | h
      · exact .inr (by rw [h]; exact List.mem_cons_self ..)
      · exact (ih h).imp id (List.mem_cons_of_mem _)

/-- A write keeps the canonical form. -/
theorem memWrite_wf {m : Memory} (a : Nat) (v : Byte) (h : Memory.wf m) : Memory.wf (memWrite m a v) := by
  induction m with
  | nil => exact List.pairwise_singleton _ _
  | cons x m ih =>
    obtain ⟨b, w⟩ := x
    have hx := List.pairwise_cons.mp h
    unfold memWrite
    split
    · rename_i hab
      refine List.pairwise_cons.mpr ⟨fun y hy => ?_, h⟩
      rcases List.mem_cons.mp hy with hy | hy
      · rw [hy]; exact hab
      · exact Nat.lt_trans hab (hx.1 y hy)
    split
    · rename_i hab
      subst hab
      exact List.pairwise_cons.mpr ⟨hx.1, hx.2⟩
    · rename_i h1 h2
      refine List.pairwise_cons.mpr ⟨fun y hy => ?_, ih hx.2⟩
      rcases mem_memWrite hy with hy | hy
      · rw [hy]; show b < a; omega
      · exact hx.1 y hy

/-- Every operation of the ring keeps its slots canonical; so does its reset state. -/
theorem ring_push_slots_wf {r : Ring} (v : Byte) (h : Memory.wf r.slots) : Memory.wf (r.push v).slots := by
  unfold Ring.push
  split
  · exact memWrite_wf _ _ h
  · exact h

theorem ring_pull_slots_wf {r : Ring} (h : Memory.wf r.slots) : Memory.wf r.pull.slots := by
  unfold Ring.pull
  split <;> exact h

theorem ring_reset_slots_wf {r : Ring} (h : Memory.wf r.slots) : Memory.wf r.reset.slots := h

theorem ring_initial_slots_wf : Memory.wf Ring.initial.slots := List.Pairwise.nil

end Sys2Proof.Machine
end

