-- ==== Sys2Proof/Laws/Return.lean ====
section
/-! SUPPORT. Going on at a return point of the loop context: what it can do, said once for all return points. -/

namespace Sys2Proof.Machine

open Sys2Proof Sys2Proof.Config

/-- Going on at a return point only puts entries of the loop context's own procedures on the control stack. -/
theorem resume_ctl (c : Cont) (s : State) :
    ∃ ts, (s.resume c).ctl = ts ++ s.ctl ∧ ∀ rest, ctlOk rest = true → ctlOk (ts ++ rest) = true := by
  have pack : ∀ (t : State) (ts : List Task), t.ctl = ts ++ s.ctl →
      (∀ rest, ctlOk rest = true → ctlOk (ts ++ rest) = true) →
      ∃ ts, t.ctl = ts ++ s.ctl ∧ ∀ rest, ctlOk rest = true → ctlOk (ts ++ rest) = true :=
    fun _ ts h1 h2 => ⟨ts, h1, h2⟩
  have nil : ∀ t : State, t.ctl = s.ctl →
      ∃ ts, t.ctl = ts ++ s.ctl ∧ ∀ rest, ctlOk rest = true → ctlOk (ts ++ rest) = true :=
    fun _ h => ⟨[], by simpa using h, fun _ h => h⟩
  cases c <;> simp only [State.resume]
  case mbPoll => unfold resumeMbPoll; split <;> first | exact nil _ rfl | exact pack _ _ rfl (fun _ h => h)
  case busStopDat => exact nil _ rfl
  case cmdSent => unfold resumeCmdSent; split <;> first | exact nil _ rfl | exact pack _ _ rfl (fun _ h => h)
  case hsReply => unfold resumeHsReply; split <;> exact nil _ rfl
  case resetBat => unfold resumeResetBat; split <;> first | exact nil _ rfl | exact pack _ [.op (.mbWait s.par.tBat), .k .hsReply, .k .resetId] rfl (fun _ h => h)
  case resetId => unfold resumeResetId; split <;> first | exact nil _ rfl | exact pack _ _ rfl (fun _ h => h)
  case rateArg => unfold resumeRateArg; split <;> first | exact nil _ rfl | exact pack _ _ rfl (fun _ h => h)
  case bringUpNext =>
    unfold resumeBringUpNext; split
    · unfold State.bringUpAdvance; split
      · exact pack _ [.op .ssRate, .k .bringUpNext] rfl (fun _ h => h)
      · exact pack _ [.op .ssMode, .k .bringUpNext] rfl (fun _ h => h)
      · exact pack _ [.op (.ssPing 0), .k .bringUpNext] rfl (fun _ h => h)
      · rename_i i _
        split
        · exact pack _ [.op .ssEnable, .k .bringUpNext] rfl (fun _ h => h)
        · rename_i hi
          refine pack _ [.op (.ssPing (i.val + 1)), .k .bringUpNext] rfl (fun r h => ?_)
          have : i.val + 1 < pingLen := by
            have := i.isLt
            have h2 : i.val ≠ 16 := fun e => hi (Fin.ext e)
            show i.val + 1 < 17; omega
          show ctlOk (.op (.ssPing (i.val+1)) :: .k .bringUpNext :: r) = true
          simp [ctlOk, Instr.ofLoop, this, h]
      all_goals exact nil _ rfl
    · exact nil _ rfl
  case hbRequested => unfold resumeHbRequested; split <;> [(unfold State.callStatusBytes; split <;> first | exact nil _ rfl | exact pack _ _ rfl (fun _ h => h)); exact nil _ rfl]
  case hbByte => unfold resumeHbByte; split <;> [(unfold State.callStatusBytes; split <;> first | exact nil _ rfl | exact pack _ _ rfl (fun _ h => h)); exact nil _ rfl]
  case repRequested => unfold resumeRepRequested; split <;> first | exact nil _ rfl | exact pack _ _ rfl (fun _ h => h)
  case repByte =>
    rename_i polled
    unfold resumeRepByte; split
    · unfold State.storeReportByte; split
      · exact pack _ [.op (.mbWait s.par.tRep), .k (.repByte polled)] rfl (fun _ h => h)
      · exact nil _ rfl
    · split <;> exact nil _ rfl
  case prDecoded => unfold resumePrDecoded; split <;> first | exact nil _ rfl | exact pack _ _ rfl (fun _ h => h)
  case prChecked => unfold resumePrChecked; split <;> first | exact nil _ rfl | exact pack _ _ rfl (fun _ h => h)
  case prTranslated => unfold resumePrTranslated; split <;> first | exact nil _ rfl | exact pack _ _ rfl (fun _ h => h)
  case prScrolled => exact pack _ _ rfl (fun _ h => h)
  case prEdged => exact pack _ _ rfl (fun _ h => h)
  case liBegun => unfold resumeLiBegun; split <;> exact pack _ _ rfl (fun _ h => h)
  case liRecovered => exact pack _ [.op .itStep] rfl (fun _ h => h)
  case liBeat => unfold resumeLiBeat; split <;> exact pack _ _ rfl (fun _ h => h)
  case liGot => unfold resumeLiGot; split <;> exact pack _ _ rfl (fun _ h => h)

/-- The fields a return point leaves alone. -/
structure Quiet (s t : State) : Prop where
  par : t.par = s.par
  slot : t.slot = s.slot
  txPhase : t.txPhase = s.txPhase
  rxIe : t.rxIe = s.rxIe
  hClk : t.hClk = s.hClk
  hDat : t.hDat = s.hDat

/-- R182 to R190: no return point but that of bus_stop touches the bus, the interrupt enable, the transmitter's
phase, the parameters or the slot. -/
theorem resume_quiet (c : Cont) (s : State) (hc : c ≠ .busStopDat) : Quiet s (s.resume c) := by
  cases c <;> simp only [State.resume]
  case mbPoll => unfold resumeMbPoll; split <;> exact ⟨rfl, rfl, rfl, rfl, rfl, rfl⟩
  case busStopDat => exact absurd rfl hc
  case cmdSent => unfold resumeCmdSent; split <;> exact ⟨rfl, rfl, rfl, rfl, rfl, rfl⟩
  case hsReply => unfold resumeHsReply; split <;> exact ⟨rfl, rfl, rfl, rfl, rfl, rfl⟩
  case resetBat => unfold resumeResetBat; split <;> exact ⟨rfl, rfl, rfl, rfl, rfl, rfl⟩
  case resetId => unfold resumeResetId; split <;> exact ⟨rfl, rfl, rfl, rfl, rfl, rfl⟩
  case rateArg => unfold resumeRateArg; split <;> exact ⟨rfl, rfl, rfl, rfl, rfl, rfl⟩
  case bringUpNext =>
    unfold resumeBringUpNext; split
    · unfold State.bringUpAdvance; split
      iterate 3 exact ⟨rfl, rfl, rfl, rfl, rfl, rfl⟩
      · split <;> exact ⟨rfl, rfl, rfl, rfl, rfl, rfl⟩
      all_goals exact ⟨rfl, rfl, rfl, rfl, rfl, rfl⟩
    · exact ⟨rfl, rfl, rfl, rfl, rfl, rfl⟩
  case hbRequested => unfold resumeHbRequested; split <;> [(unfold State.callStatusBytes; split <;> exact ⟨rfl, rfl, rfl, rfl, rfl, rfl⟩); exact ⟨rfl, rfl, rfl, rfl, rfl, rfl⟩]
  case hbByte => unfold resumeHbByte; split <;> [(unfold State.callStatusBytes; split <;> exact ⟨rfl, rfl, rfl, rfl, rfl, rfl⟩); exact ⟨rfl, rfl, rfl, rfl, rfl, rfl⟩]
  case repRequested => unfold resumeRepRequested; split <;> exact ⟨rfl, rfl, rfl, rfl, rfl, rfl⟩
  case repByte =>
    unfold resumeRepByte; split
    · unfold State.storeReportByte; split <;> exact ⟨rfl, rfl, rfl, rfl, rfl, rfl⟩
    · split <;> exact ⟨rfl, rfl, rfl, rfl, rfl, rfl⟩
  case prDecoded => unfold resumePrDecoded; split <;> exact ⟨rfl, rfl, rfl, rfl, rfl, rfl⟩
  case prChecked => unfold resumePrChecked; split <;> exact ⟨rfl, rfl, rfl, rfl, rfl, rfl⟩
  case prTranslated => unfold resumePrTranslated; split <;> exact ⟨rfl, rfl, rfl, rfl, rfl, rfl⟩
  case prScrolled => exact ⟨rfl, rfl, rfl, rfl, rfl, rfl⟩
  case prEdged => exact ⟨rfl, rfl, rfl, rfl, rfl, rfl⟩
  case liBegun => unfold resumeLiBegun; split <;> exact ⟨rfl, rfl, rfl, rfl, rfl, rfl⟩
  case liRecovered => exact ⟨rfl, rfl, rfl, rfl, rfl, rfl⟩
  case liBeat => unfold resumeLiBeat; split <;> exact ⟨rfl, rfl, rfl, rfl, rfl, rfl⟩
  case liGot => unfold resumeLiGot; split <;> exact ⟨rfl, rfl, rfl, rfl, rfl, rfl⟩

theorem Inv.callStatusBytes {s : State} (h : Inv s) (n) : Inv (s.callStatusBytes n) := by
  cases n <;> [exact h.returning _; exact h.call _]

/-- Going on at a return point keeps the invariant of every step. -/
theorem Inv.resume {s : State} (c : Cont) (h : Inv s) : Inv (s.resume c) := by
  cases c <;> simp only [State.resume]
  case mbPoll => unfold resumeMbPoll; split <;> [exact h.mbPull.call _; exact h.mbPull]
  case busStopDat => exact h.drvDat _
  case cmdSent => unfold resumeCmdSent; split <;> [exact h.call _; exact h.returning _]
  case hsReply => unfold resumeHsReply; split <;> [exact h.returning _; exact (h.raise _).returning _]
  case resetBat => unfold resumeResetBat; split <;> [exact (h.call _).call _; exact h.returning _]
  case resetId => unfold resumeResetId; split <;> [exact h.call _; exact h.returning _]
  case rateArg => unfold resumeRateArg; split <;> [exact h.call _; exact h.returning _]
  case bringUpNext =>
    unfold resumeBringUpNext; split
    · unfold State.bringUpAdvance; split
      · apply h.frame <;> rfl
      · apply h.frame <;> rfl
      · apply h.frame <;> rfl
      · split <;> (apply h.frame <;> rfl)
      all_goals exact { h with rx := h.rx.congr rfl rfl rfl, times := ⟨h.times.1, Nat.le_refl _⟩ }
    · apply h.frame <;> rfl
  case hbRequested => unfold resumeHbRequested; split <;> [exact h.callStatusBytes _; (apply h.frame <;> rfl)]
  case hbByte => unfold resumeHbByte; split <;> [exact h.callStatusBytes _; exact (h.raiseDesync _).returning _]
  case repRequested => unfold resumeRepRequested; split <;> [exact h.call _; (apply h.frame <;> rfl)]
  case repByte =>
    unfold resumeRepByte; split
    · unfold State.storeReportByte; split <;> (apply h.frame <;> rfl)
    · split <;> [exact (h.raiseDesync _).returning _; exact h.returning _]
  case prDecoded => unfold resumePrDecoded; split <;> [exact h; exact h.call _]
  case prChecked => unfold resumePrChecked; split <;> [exact h; exact h.call _]
  case prTranslated => unfold resumePrTranslated; split <;> first | exact h.call _ | exact h
  case prScrolled => exact h.call _
  case prEdged => exact h.call _
  case liBegun => unfold resumeLiBegun; split <;> exact h.call _
  case liRecovered => apply h.frame <;> rfl
  case liBeat => unfold resumeLiBeat; split <;> exact h.call _
  case liGot => unfold resumeLiGot; split <;> exact h.call _

end Sys2Proof.Machine
end

