-- ==== Sys2Proof/Laws/Run.lean ====
section
/-! SUPPORT. Running a list of moves: one move at a time. -/

namespace Sys2Proof.Machine

open Sys2Proof Sys2Proof.Config

/-- A step with no operation in the slot and a move already ordered is that move. -/
theorem step_move {s : State} {m : Move} {ms : List Move} (h : s.slot = none) (hs : s.sched = m :: ms) :
    step s = State.makeMove m { s with sched := ms } := by
  simp [step, State.stepOnce, h, State.nextMove, State.moveTaken, hs]

/-- Running a list of moves is making the first and running the rest. -/
theorem runMoves_cons {s t : State} {m : Move} {ms : List Move} (h : s.slot = none)
    (hm : s.makeMove m = .next t) : runMoves (m :: ms) s = runMoves ms t := by
  rw [runMoves, step_move (s := { s with sched := m :: s.sched }) h rfl,
    show State.makeMove m { s with sched := s.sched } = _ from hm]

/-- A run of moves in two parts. -/
theorem runMoves_append {s t : State} {ms ns : List Move} (h : runMoves ms s = .next t) :
    runMoves (ms ++ ns) s = runMoves ns t := by
  induction ms generalizing s with
  | nil => cases h; rfl
  | cons m ms ih =>
    rw [runMoves] at h
    rw [List.cons_append, runMoves]
    split at h
    · exact ih h
    · cases h
    · cases h

end Sys2Proof.Machine
end

