-- ==== Sys2Proof/Tests/Slice0.lean ====
section
/-! SUPPORT. Tests, each expected value from the spec and named by its source; and for each statement with hypotheses the states that meet them. -/

namespace Sys2Proof.Tests

open Sys2Proof Sys2Proof.Machine Sys2Proof.Config

/-! ## Well-formedness: an ill-formed term for each check -/

theorem test_wf_refuses_delta_x_low : (Instr.seStep ⟨false, false, false, true⟩ (-129) 0).wf = false := by decide
theorem test_wf_refuses_delta_x_high : (Instr.seStep ⟨false, false, false, true⟩ 128 0).wf = false := by decide
theorem test_wf_refuses_delta_y_low : (Instr.seStep ⟨false, false, false, true⟩ 0 (-128)).wf = false := by decide
theorem test_wf_refuses_delta_y_high : (Instr.seStep ⟨false, false, false, true⟩ 0 129).wf = false := by decide
theorem test_wf_refuses_wait : (Instr.mbWait (2 ^ 32)).wf = false := by decide
theorem test_wf_refuses_send_wait : (Instr.sendCmd 0xFF (2 ^ 32)).wf = false := by decide
theorem test_wf_refuses_ping_index : (Instr.ssPing 17).wf = false := by decide
theorem test_wf_refuses_extended_report : (Instr.report ⟨0x48, 0x02, 0x00⟩).wf = false := by decide
theorem test_wf_refuses_motion_ext : (Instr.extPacket ⟨0x08, 0x05, 0xFB⟩).wf = false := by decide
theorem test_wf_refuses_aux_ext : (Instr.extPacket ⟨0xC8, 0xD2, 0x10⟩).wf = false := by decide
theorem test_wf_refuses_motion_auxbtn : (Instr.extAuxbtn ⟨0x08, 0xD2, 0x10⟩).wf = false := by decide
theorem test_wf_refuses_other_auxbtn : (Instr.extAuxbtn ⟨0x48, 0x02, 0x00⟩).wf = false := by decide

/-! ## Decoding -/

/-- An operation word of formats OP and PROC from its bytes: the ordinal, then four operand bytes. -/
def opBytes (c o0 o1 o2 o3 : Byte) : List Byte := [c, o0, o1, o2, o3, 0, 0, 0]

/-- R130: the 28 ordinals of format OP, their bits as the table writes them. -/
theorem test_decode_op :
    [0b00000000, 0b00000001, 0b00000010, 0b00000011, 0b00000100, 0b00000101, 0b00000110, 0b00000111,
     0b00001000, 0b00001001, 0b00001010, 0b00001011, 0b00001100, 0b00001101, 0b00001110, 0b00001111,
     0b00010000, 0b00010001, 0b00010010, 0b00010011, 0b00010100, 0b00010101, 0b00010110, 0b00010111,
     0b00011000, 0b00011001, 0b00011010, 0b00011011].map (decodeTableWord 8) =
    [Instr.mbPush 0, .mbPull, .mbEmpty, .mbReset, .rxEdge, .rxReset, .txStart 0, .txReq1, .txReq2, .txReq3,
     .txWaitDev, .txBitSet, .txBitHi, .txBitLo, .txStop, .txWaitAck, .txDone, .txAbort, .xdDecode, .rtTranslate,
     .rtEdges ⟨false, false, false, false⟩, .seStep ⟨false, false, false, false⟩ 0 0, .itRealEvent false, .itStep,
     .mlIterBegin, .mlRecover, .mlHeartbeat, .mlCheck].map some := by decide

/-- R135: the 14 ordinals of format PROC. -/
theorem test_decode_proc :
    [0b01000000, 0b01000001, 0b01000010, 0b01000011, 0b01000100, 0b01000101, 0b01000110, 0b01000111,
     0b01001000, 0b01001001, 0b01001010, 0b01001011, 0b01001100, 0b01001101].map (decodeTableWord 8) =
    [Instr.mbWait 0, .txSend 0, .sendCmd 0 0, .bringUp, .ssReset, .ssRate, .ssMode, .ssPing 0, .ssEnable, .getReport,
     .processReport, .loopIteration, .busStop, .reset].map some := by decide

/-- The operands of log 6, written out: a byte, a set of buttons, the three operands of SE_STEP (`dy = 128` is the
raw delta 0x80, R243), durations with the least significant byte first, an index. -/
theorem test_decode_operands :
    decode (opBytes 0x00 0xFA 0 0 0) = .ok (.mbPush 0xFA) ∧
    decode (opBytes 0x06 0xF4 0 0 0) = .ok (.txStart 0xF4) ∧
    decode (opBytes 0x14 0b0101 0 0 0) = .ok (.rtEdges ⟨true, false, true, false⟩) ∧
    decode (opBytes 0x15 0b1000 0x05 0x80 0) = .ok (.seStep ⟨false, false, false, true⟩ 5 128) ∧
    decode (opBytes 0x16 1 0 0 0) = .ok (.itRealEvent true) ∧
    decode (opBytes 0x40 0xE8 0x03 0 0) = .ok (.mbWait 1000) ∧
    decode (opBytes 0x41 0xEA 0 0 0) = .ok (.txSend 0xEA) ∧
    decode (opBytes 0x42 0xFF 0xC8 0 0) = .ok (.sendCmd 0xFF 200) ∧
    decode (opBytes 0x47 16 0 0 0) = .ok (.ssPing 16) := by decide

/-- R101 and section 2.1 of the test vectors: `frame(5A) = 0 01011010 1 1`, `frame(F4) = 0 00101111 0 1`, and the
first with its parity bit inverted. -/
theorem test_decode_frame :
    decodeTableWord 16 0b00101101011 = some (.frame 0x5A true) ∧
    decodeTableWord 16 0b00010111101 = some (.frame 0xF4 false) ∧
    decodeTableWord 16 0b00101101001 = some (.frame 0x5A false) := by decide

/-- R115, R117: the command and response bytes. The response row 00 has the word of ordinal 0x00 (log 5) and is
read from its operation word. -/
theorem test_decode_cmd_rsp :
    [0b11111111, 0b11110100, 0b11110101, 0b11110011, 0b11110000, 0b11101010, 0b11101011, 0b11101001, 0b11111010,
     0b10101010].map (decodeTableWord 8) =
    [Instr.cmdReset, .cmdEnable, .cmdDisable, .cmdSetRate, .cmdSetRemote, .cmdSetStream, .cmdReadData, .cmdStatus,
     .rspAck, .rspSelftestOk].map some ∧
    decode [0x00, 0, 0, 0, 0, 0, 0, 5] = .ok .rspDeviceId := by decide

/-- R105, R110, R111, V-RT1, V-XD1, V-XD6: `{rep[0], rep[1], rep[2]}` with `rep[0]` most significant. -/
theorem test_decode_report :
    decodeTableWord 24 0x0905FB = some (.report ⟨0x09, 0x05, 0xFB⟩) ∧
    decodeTableWord 24 0xC8D210 = some (.extAuxbtn ⟨0xC8, 0xD2, 0x10⟩) ∧
    decodeTableWord 24 0x480230 = some (.extPacket ⟨0x48, 0x02, 0x30⟩) := by decide

/-- R120: the table row of an index, the byte first and then the index (log 6). -/
theorem test_decode_ping :
    [[0xE8, 0], [0x00, 1], [0xE8, 2], [0x03, 3], [0xE8, 4], [0x02, 5], [0xE8, 6], [0x01, 7], [0xE6, 8], [0xE8, 9],
     [0x03, 10], [0xE8, 11], [0x01, 12], [0xE8, 13], [0x02, 14], [0xE8, 15], [0x03, 16]].map
      (fun x => (decode (x ++ [0, 0, 0, 0, 0, 6])).toOption) =
    [Instr.ping00, .ping01, .ping02, .ping03, .ping04, .ping05, .ping06, .ping07, .ping08, .ping09, .ping10, .ping11,
     .ping12, .ping13, .ping14, .ping15, .ping16].map some := by decide

/-- What is no operation word is refused by name. -/
theorem test_decode_refuses :
    decode [] = .error .badLength ∧ decode (opBytes 0x1C 0 0 0 0) = .error .badOrdinal ∧
    decode (opBytes 0x3F 0 0 0 0) = .error .badOrdinal ∧ decode (opBytes 0x4E 0 0 0 0) = .error .badOrdinal ∧
    decode (opBytes 0x01 1 0 0 0) = .error .badOperand ∧ decode (opBytes 0x47 17 0 0 0) = .error .badOperand ∧
    decode (opBytes 0x14 16 0 0 0) = .error .badOperand ∧ decode [0, 0, 0, 0, 0, 0, 0, 7] = .error .badFormat ∧
    decode [0xFE, 0, 0, 0, 0, 0, 0, 4] = .error .badByte ∧ decode [0x55, 0, 0, 0, 0, 0, 0, 5] = .error .badByte ∧
    decode [0xE8, 1, 0, 0, 0, 0, 0, 6] = .error .badByte ∧
    decode [0x00, 0x04, 0, 0, 0, 0, 0, 1] = .error .badFrame ∧
    decode [0x00, 0x02, 0x48, 0, 0, 0, 0, 2] = .error .badReport ∧
    decode [0xFB, 0x05, 0x09, 0, 0, 0, 0, 3] = .error .badReport := by decide

/-! ## One step each

The state after, if there is one, seen through a few fields. -/

/-- The fields of the next state that a test looks at. -/
def sees {α : Type} (f : State → α) (o : Out) : Option α :=
  match o with
  | .next t => some (f t)
  | .fault _ => none
  | .refused _ => none

/-- The name under which an outcome is refused. -/
def refusal (o : Out) : Option Refusal :=
  match o with
  | .next _ => none
  | .fault _ => none
  | .refused r => some r

/-- A state of the middle of the test vectors: session up, interrupt on, time 1000. -/
def up : State := { State.reset with sess := .streaming, rxIe := true, now := 1000, clkPrev := true }

/-- A step on bytes that are no operation word is refused; a word placed by `withFetchWord` is what runs. -/
theorem test_step_undecodable : refusal (step { up with slot := some [] }) = some .undecodable := by decide
theorem test_step_slot : sees (fun t => (t.slot, t.rxIe, t.txPhase)) (step (State.reset.withFetchWord 8 0x10)) =
    some (none, true, .off) := by decide

/-- V-MB1, V-MB2: appended as newest; a seventeenth dropped. -/
theorem test_mbPush : sees (·.mb) (exec (.mbPush 0xAA) { up with mb := [0xFA] }) = some [0xFA, 0xAA] := by decide
theorem test_mbPush_full : sees (fun t => (t.mb, t.err)) (exec (.mbPush 0x10)
    { up with mb := [0, 1, 2, 3, 4, 5, 6, 7, 8, 9, 10, 11, 12, 13, 14, 15] }) =
    some ([0, 1, 2, 3, 4, 5, 6, 7, 8, 9, 10, 11, 12, 13, 14, 15], 0) := by decide

/-- R142. -/
theorem test_mbPull : sees (fun t => (t.mb, t.ret)) (exec .mbPull { up with mb := [0xFA, 0xAA] }) =
    some ([0xAA], .byte (some 0xFA)) := by decide
theorem test_mbPull_empty : sees (fun t => (t.mb, t.ret)) (exec .mbPull up) = some ([], .byte none) := by decide

/-- V-MB4. -/
theorem test_mbEmpty : sees (·.ret) (exec .mbEmpty { up with mb := [0x08, 0x05] }) = some (.flag false) := by decide
theorem test_mbReset : sees (·.mb) (exec .mbReset { up with mb := [0x08, 0x05] }) = some [] := by decide

/-- V-MB5: a byte present wins even at a deadline that has passed; an empty mailbox past it gives none. -/
theorem test_mbWait : sees (fun t => (t.ret, t.ctl)) (execAll [.mbWait 0] { up with mb := [0xFA] }) =
    some (.void, [.k (.mbPoll 1000)]) := by decide
theorem test_mbPoll : sees (fun t => (t.ret, t.ctl))
    (State.loopStep { up with mb := [0xFA], ctl := [.k (.mbPoll 1000)] }) = some (.byte (some 0xFA), []) := by decide

/-- V-RX1, edge 2: from edge 1's state the bit 1. -/
theorem test_rxEdge : sees (fun t => (t.rxPos, t.rxAcc, t.rxPar, t.rxPending))
    (exec .rxEdge { up with rxPending := true, rxPos := 2, dClk := .low, clkPrev := false }) =
    some (3, 0x80, false, false) := by decide
/-- V-RX6: a spurious edge. -/
theorem test_rxEdge_spurious : sees (fun t => (t.rxPos, t.rxAcc, t.rxPar, t.rxPending))
    (exec .rxEdge { up with rxPending := true, rxPos := 4, rxAcc := 0xA0 }) = some (4, 0xA0, true, false) := by decide

/-- V-RX11. -/
theorem test_rxReset : sees (fun t => (t.rxPos, t.rxAcc, t.rxPar, t.rxPending))
    (exec .rxReset { up with rxPending := true, rxPos := 4, rxAcc := 0xA0, rxPar := false }) =
    some (0, 0x00, true, false) := by decide

/-- V-TX1, steps 1 to 6. -/
theorem test_txStart : sees (fun t => (t.rxIe, t.txI, t.txDeadline, t.hClk, t.hDat, t.txPhase))
    (exec (.txStart 0xF4) { up with hClk := .low }) = some (false, 0, 1500, .rel, .rel, .req1) := by decide
theorem test_txReq1 : sees (fun t => (t.hClk, t.hDat, t.clk, t.dat, t.txPhase))
    (exec .txReq1 { up with rxIe := false, txPhase := .req1 }) = some (.low, .rel, false, true, .req2) := by decide
theorem test_txReq2 : sees (fun t => (t.hClk, t.hDat, t.txPhase))
    (exec .txReq2 { up with rxIe := false, txPhase := .req2, hClk := .low }) = some (.low, .low, .req3) := by decide
theorem test_txReq3 : sees (fun t => (t.hClk, t.hDat, t.clk, t.txPhase))
    (exec .txReq3 { up with rxIe := false, txPhase := .req3, hClk := .low, hDat := .low }) =
    some (.rel, .low, true, .waitDev) := by decide
theorem test_txWaitDev : sees (·.txPhase)
    (exec .txWaitDev { up with txPhase := .waitDev, hDat := .low, dClk := .low }) = some .bitSet := by decide
/-- V-TX2. -/
theorem test_txWaitDev_late : sees (fun t => (t.hClk, t.hDat, t.err, t.txPhase, t.rxIe, t.ret))
    (exec .txWaitDev { up with rxIe := false, txPhase := .waitDev, hDat := .low, now := 1500, txDeadline := 1500 }) =
    some (.low, .rel, 0x04, .off, false, .status false) := by decide
/-- R186: `tx_byte = F4`: bit 2 is 1, the parity is 0. -/
theorem test_txBitSet : sees (fun t => (t.hDat, t.txPhase))
    (exec .txBitSet { up with txPhase := .bitSet, txByte := 0xF4, txI := 2, hDat := .low }) =
    some (.rel, .bitHi) := by decide
theorem test_txBitSet_parity : sees (fun t => (t.hDat, t.txPhase))
    (exec .txBitSet { up with txPhase := .bitSet, txByte := 0xF4, txI := 8 }) = some (.low, .bitHi) := by decide
/-- V-TX1, steps 9, 11, 51, 52, 55, 56. -/
theorem test_txBitHi : sees (·.txPhase) (exec .txBitHi { up with txPhase := .bitHi }) = some .bitLo := by decide
theorem test_txBitLo : sees (fun t => (t.txI, t.txPhase))
    (exec .txBitLo { up with txPhase := .bitLo, dClk := .low }) = some (1, .bitSet) := by decide
theorem test_txBitLo_last : sees (fun t => (t.txI, t.txPhase))
    (exec .txBitLo { up with txPhase := .bitLo, txI := 8, dClk := .low }) = some (8, .stop) := by decide
theorem test_txStop : sees (fun t => (t.hDat, t.txPhase))
    (exec .txStop { up with txPhase := .stop, hDat := .low, dClk := .low }) = some (.rel, .waitAck) := by decide
/-- V-TX6 with `TX_ACK_WAIT_LOW = true`, D15: a poll before the acknowledge pulse ends nothing, one in it does. -/
theorem test_txWaitAck_ackLow :
    [Drive.rel, .low].map (fun d => sees (·.txPhase)
      (exec .txWaitAck { up with txPhase := .ackLow, txDeadline := 1500, dDat := d })) =
    [some .ackLow, some .waitAck] := by decide
/-- V-TX4. -/
theorem test_txWaitAck : sees (·.txPhase)
    (exec .txWaitAck { up with txPhase := .waitAck, now := 1600, txDeadline := 1500 }) = some .done := by decide
theorem test_txDone : sees (fun t => (t.rxIe, t.txPhase, t.ret))
    (exec .txDone { up with rxIe := false, txPhase := .done }) = some (true, .off, .status true) := by decide
theorem test_txAbort : sees (fun t => (t.hClk, t.hDat, t.err, t.txPhase, t.ret))
    (exec .txAbort { up with txPhase := .bitHi, hDat := .low }) =
    some (.low, .rel, 0x04, .off, .status false) := by decide
theorem test_txSend : sees (·.ctl) (exec (.txSend 0xEA) up) = some [.op (.txStart 0xEA), .txRun] := by decide
theorem test_busStop : sees (fun t => (t.hClk, t.ctl)) (exec .busStop up) = some (.low, [.k .busStopDat]) := by decide

/-- R203, R210 to R215: what each sends first (`T_ACK = 200`), V-SS1, V-SS2. -/
theorem test_sendCmd : sees (·.ctl) (exec (.sendCmd 0xF4 200) up) =
    some [.op (.txSend 0xF4), .k (.cmdSent 200)] := by decide
theorem test_bringUp : sees (fun t => (t.sess, t.ssStep)) (exec .bringUp up) = some (.resetting, .reset) := by decide
theorem test_ssReset : sees (·.ctl) (exec .ssReset up) = some [.op (.sendCmd 0xFF 200), .k .resetBat] := by decide
theorem test_ssRate : sees (·.ctl) (exec .ssRate { up with par := { defaults with sampleRate := some 0x64 } }) =
    some [.op (.sendCmd 0xF3 200), .k (.rateArg 0x64)] := by decide
theorem test_ssRate_none : sees (fun t => (t.ctl, t.ret)) (exec .ssRate up) = some ([], .status true) := by decide
theorem test_ssMode : sees (·.ctl) (exec .ssMode up) = some [.op (.sendCmd 0xEA 200)] := by decide
theorem test_ssMode_remote : sees (·.ctl) (exec .ssMode { up with par := { defaults with mode := .remote } }) =
    some [.op (.sendCmd 0xF0 200)] := by decide
theorem test_ssPing : sees (·.ctl) (exec (.ssPing 8) up) = some [.op (.sendCmd 0xE6 200)] := by decide
theorem test_ssEnable : sees (·.ctl) (exec .ssEnable up) = some [.op (.sendCmd 0xF4 200)] := by decide
theorem test_ssEnable_remote : sees (fun t => (t.ctl, t.ret))
    (exec .ssEnable { up with par := { defaults with mode := .remote } }) = some ([], .status true) := by decide

/-- V-XD1, V-XD8. -/
theorem test_xdDecode : sees (fun t => (t.ret, t.auxScr, t.auxMid)) (exec .xdDecode { up with rep := ⟨0xC8, 0xD2, 0x10⟩ }) =
    some (.decoded true, true, false) := by decide
theorem test_xdDecode_motion : sees (fun t => (t.ret, t.auxScr, t.auxMid))
    (exec .xdDecode { up with rep := ⟨0x08, 0xD2, 0x10⟩ }) = some (.decoded false, false, false) := by decide

/-- V-RT10, V-RT4'. -/
theorem test_rtTranslate : sees (·.ret) (exec .rtTranslate { up with rep := ⟨0x09, 0x05, 0xFB⟩, auxScr := true }) =
    some (.translated ⟨true, false, false, true⟩ 5 5) := by decide
theorem test_rtTranslate_swap : sees (·.ret)
    (exec .rtTranslate { up with rep := ⟨0x08, 0x80, 0x80⟩, auxMid := true, cfgSwap := true }) =
    some (.translated ⟨false, false, false, true⟩ (-128) 128) := by decide

/-- V-RE3, V-RE7. -/
theorem test_rtEdges : sees (fun t => (t.hostOut, t.ret))
    (exec (.rtEdges ⟨false, true, true, false⟩) { up with btnPrev := ⟨true, false, true, false⟩ }) =
    some ([.release .l, .press .r], .flag true) := by decide
theorem test_rtEdges_all : sees (·.hostOut)
    (exec (.rtEdges ⟨false, false, false, false⟩) { up with btnPrev := ⟨true, true, true, true⟩ }) =
    some [.release .l, .release .r, .release .m, .release .x] := by decide

/-- V-SE3's second Report, V-SE14. -/
theorem test_seStep_held : sees (fun t => (t.scrollAcc, t.hostOut, t.ret))
    (exec (.seStep ⟨false, false, false, true⟩ 3 (-7)) { up with cfgScroll := true, scrollAcc := -7 }) =
    some (0, [.move 0 0 (-1)], .flag true) := by decide
theorem test_seStep_free : sees (fun t => (t.scrollAcc, t.hostOut, t.ret))
    (exec (.seStep ⟨false, false, false, false⟩ 3 (-2)) { up with scrollAcc := 6 }) =
    some (0, [.move 3 (-2) 0], .flag true) := by decide

/-- The examples of R271 and R272: strictly more than the threshold. -/
theorem test_itRealEvent : sees (fun t => (t.jigN, t.tLast)) (exec (.itRealEvent true) { up with jigN := 2, now := 95000 }) =
    some (0, 95000) := by decide
theorem test_itStep : sees (fun t => (t.hostOut, t.jigN)) (exec .itStep { up with cfgJiggle := true, now := 30001 }) =
    some ([.move 1 0 0, .move (-1) 0 0], 1) := by decide
theorem test_itStep_early : sees (fun t => (t.hostOut, t.jigN)) (exec .itStep { up with cfgJiggle := true, now := 30000 }) =
    some ([], 0) := by decide

/-- The example of R281, and R290. -/
theorem test_mlIterBegin : sees (fun t => (t.sess, t.loopState, t.cfgScroll))
    (exec .mlIterBegin { up with err := 0x02, inScroll := true }) = some (.desync, .recovering, true) := by decide
theorem test_mlRecover : sees (fun t => (t.rxIe, t.hClk, t.hDat, t.err, t.mb))
    (exec .mlRecover { up with err := 0x02, mb := [0x08], hDat := .low, rxPending := true, rxPos := 3 }) =
    some (false, .low, .rel, 0, []) := by decide
/-- The example of R284, and a heartbeat not due. -/
theorem test_mlHeartbeat : sees (fun t => (t.hbN, t.tHb, t.ctl))
    (exec .mlHeartbeat { up with now := 30000, par := { defaults with hbEnable := true } }) =
    some (1, 30000, [.op (.sendCmd 0xE9 200), .k .hbRequested]) := by decide
theorem test_mlHeartbeat_off : sees (fun t => (t.hbN, t.ret)) (exec .mlHeartbeat { up with now := 30000 }) =
    some (0, .status true) := by decide
/-- The example of R288. -/
theorem test_mlCheck : sees (fun t => (t.err, t.sess, t.ret)) (exec .mlCheck { up with rep := ⟨0x88, 0x7F, 0x00⟩ }) =
    some (0x07, .desync, .checked true) := by decide
/-- R285 (`T_POLL = 20`; `> EB` in Remote-Polling mode), R287, R280. -/
theorem test_getReport : sees (·.ctl) (exec .getReport up) = some [.op (.mbWait 20), .k (.repByte false)] := by decide
theorem test_getReport_remote : sees (·.ctl) (exec .getReport { up with par := { defaults with mode := .remote } }) =
    some [.op (.sendCmd 0xEB 200), .k .repRequested] := by decide
theorem test_processReport : sees (·.ctl) (exec .processReport up) = some [.op .xdDecode, .k .prDecoded] := by decide
theorem test_loopIteration : sees (·.ctl) (exec .loopIteration up) = some [.op .mlIterBegin, .k .liBegun] := by decide
/-- R61. -/
theorem test_reset : sees (fun t => (t.rxIe, t.sess, t.mb, t.tLast)) (exec .reset { up with mb := [0x01] }) =
    some (false, .idle, [], 1000) := by decide

/-- V-RX1, V-RX3 (the frame of 5A and its parity inverted), V-RX9's bytes, V-RX8. -/
theorem test_frame : sees (fun t => (t.mb, t.err, t.rxPos)) (exec (.frame 0x5A true) up) = some ([0x5A], 0, 0) := by decide
theorem test_frame_parity : sees (fun t => (t.mb, t.err, t.rxPos)) (exec (.frame 0x5A false) up) =
    some ([], 0x01, 0) := by decide
theorem test_rspAck : sees (·.mb) (exec .rspAck up) = some [0xFA] := by decide
theorem test_rspSelftestOk : sees (·.mb) (exec .rspSelftestOk { up with mb := [0xFA] }) = some [0xFA, 0xAA] := by decide
theorem test_rspDeviceId : sees (·.mb) (exec .rspDeviceId { up with rxIe := false }) = some [] := by decide

/-- R115: the byte each command row sends. -/
theorem test_commands :
    [Instr.cmdReset, .cmdEnable, .cmdDisable, .cmdSetRate, .cmdSetRemote, .cmdSetStream, .cmdReadData, .cmdStatus].map
      (fun i => sees (fun t => t.ctl.head?) (exec i up)) =
    [0xFF, 0xF4, 0xF5, 0xF3, 0xF0, 0xEA, 0xEB, 0xE9].map (fun b => some (some (.op (.sendCmd b 200)))) := by decide
/-- R120, V-SS1: the byte each table row sends. -/
theorem test_pings :
    [Instr.ping00, .ping01, .ping02, .ping03, .ping04, .ping05, .ping06, .ping07, .ping08, .ping09, .ping10, .ping11,
     .ping12, .ping13, .ping14, .ping15, .ping16].map (fun i => sees (fun t => t.ctl.head?) (exec i up)) =
    [0xE8, 0x00, 0xE8, 0x03, 0xE8, 0x02, 0xE8, 0x01, 0xE6, 0xE8, 0x03, 0xE8, 0x01, 0xE8, 0x02, 0xE8, 0x03].map
      (fun b => some (some (.op (.sendCmd b 200)))) := by decide
/-- R105, V-XD2, V-XD6. -/
theorem test_report : sees (fun t => (t.rep, t.repN)) (exec (.report ⟨0x09, 0x05, 0xFB⟩) up) =
    some (⟨0x09, 0x05, 0xFB⟩, 3) := by decide
theorem test_extAuxbtn : sees (fun t => (t.auxScr, t.auxMid)) (exec (.extAuxbtn ⟨0xC8, 0xD2, 0x20⟩) up) =
    some (false, true) := by decide
theorem test_extPacket : sees (fun t => (t.auxScr, t.auxMid, t.ret))
    (exec (.extPacket ⟨0x48, 0x02, 0x30⟩) { up with auxMid := true }) = some (false, true, .decoded true) := by decide

/-- V-MB3: the ring wraps. -/
theorem test_ring_wraps :
    let r := (((({ Ring.initial with tail := 14 } : Ring).push 0xA1).push 0xA2).push 0xA3).push 0xA4
    r.slots.map (·.1) = [0, 1, 14, 15] ∧ r.cnt = 4 ∧ r.pulled = some 0xA1 ∧ r.pull.pull.tail = 0 ∧
    r.pull.pull.pulled = some 0xA3 := by decide

/-! ## States that meet the hypotheses of the statements

One theorem for each statement of Obligations.lean that has hypotheses, with each of its clauses. -/

/-- A send at its first data bit: the device holds the clock low, the loop context is inside tx_send. -/
def sending : State := { up with
  sched := [.loop], rxIe := false, txPhase := .bitHi, txByte := 0xF4, txDeadline := 1500, hDat := .low, dClk := .low, clkPrev := false,
  ctl := [.txRun, .k (.cmdSent 200), .k .bringUpNext, .k .liRecovered], sess := .negotiating }

theorem sending_inv : Inv sending :=
  ⟨by decide, ⟨by decide, by decide, by decide⟩, by decide, by decide, by decide, by decide, by decide, by decide,
    by decide, by decide⟩
theorem sending_run : RunInv sending :=
  ⟨sending_inv, by decide, by decide, by decide, by decide, by decide, by decide⟩

/-- A session desynchronised by a parity error, at the start of an iteration. -/
def broken : State := { up with sched := [.loop], sess := .desync, err := 0x02, mb := [0xFA] }

theorem broken_inv : Inv broken :=
  ⟨by decide, ⟨by decide, by decide, by decide⟩, by decide, by decide, by decide, by decide, by decide, by decide,
    by decide, by decide⟩
theorem broken_run : RunInv broken := ⟨broken_inv, by decide, by decide, by decide, by decide, by decide, by decide⟩
theorem broken_desync : DesyncInv broken :=
  ⟨broken_run, by decide, ⟨fun _ _ _ _ _ => by decide, fun _ _ _ _ => by decide⟩, fun _ => .inl (by decide)⟩

/-- The same with a request about to pull the clock low (R182). -/
def requesting : State := { sending with txPhase := .req1, dClk := .rel, hDat := .rel, clkPrev := true }

theorem requesting_run : RunInv requesting :=
  ⟨⟨by decide, ⟨by decide, by decide, by decide⟩, by decide, by decide, by decide, by decide, by decide, by decide,
    by decide, by decide⟩, by decide, by decide, by decide, by decide, by decide, by decide⟩

theorem witness_DecodeEncode : (Instr.seStep ⟨true, true, true, true⟩ (-128) 128).wf = true ∧
    (Instr.seStep ⟨true, true, true, true⟩ 127 (-127)).wf = true ∧ (Instr.mbWait (2 ^ 32 - 1)).wf = true ∧
    (Instr.sendCmd 0xFF (2 ^ 32 - 1)).wf = true ∧ (Instr.ssPing 16).wf = true ∧
    (Instr.extPacket ⟨0x48, 0x02, 0x00⟩).wf = true ∧ (Instr.extAuxbtn ⟨0x48, 0xD2, 0xFF⟩).wf = true ∧
    (Instr.report ⟨0x48, 0xFD, 0x00⟩).wf = true := by decide

theorem witness_StepRunsSlot :
    { up with slot := some (opBytes 0x01 0 0 0 0) }.slot = some (opBytes 0x01 0 0 0 0) ∧
    decode (opBytes 0x01 0 0 0 0) = .ok .mbPull ∧ decodeTableWord 8 0x04 = some .rxEdge := by decide

theorem witness_StepRunsLoop :
    let s (ts : List Task) (p : TxPhase) : State := { up with sched := [.loop], ctl := ts, txPhase := p }
    (s [] .off).slot = none ∧ (s [] .off).sched = [.loop] ∧ (s [] .off).ctl = [] ∧
    (s [.op .itStep] .off).ctl = [.op .itStep] ∧
    (s [.txRun] .req1).ctl = [.txRun] ∧ (s [.txRun] .req1).txPhase.instr = some .txReq1 ∧
    (s [.txRun] .off).txPhase = .off ∧ (s [.k .liGot] .off).ctl = [.k .liGot] := by decide

theorem witness_StepRunsAgents :
    let s (m : Move) (ie p : Bool) : State := { up with sched := [m], rxIe := ie, rxPending := p }
    (s .isr true true).slot = none ∧ (s .isr true true).sched = [.isr] ∧ (s .isr true true).rxIe = true ∧
    (s .isr true true).rxPending = true ∧ (s .isr false false).rxIe = false ∧ (s .isr true false).rxPending = false ∧
    (s (.devClk .low) true false).sched = [.devClk .low] ∧ (s (.devDat .low) true false).sched = [.devDat .low] ∧
    (s (.hostSwap true) true false).sched = [.hostSwap true] ∧
    (s (.hostJiggle true) true false).sched = [.hostJiggle true] ∧
    (s (.hostScroll true) true false).sched = [.hostScroll true] ∧
    (s (.hostSuspended true) true false).sched = [.hostSuspended true] ∧
    (s (.clock 0) true false).sched = [.clock 0] := by decide

theorem witness_InvKept : Inv sending ∧ (sees (·.now) (step sending)).isSome = true :=
  ⟨sending_inv, by decide⟩
theorem witness_RunsNeverStop : RunInv sending ∧ RunInv broken ∧ RunInv requesting :=
  ⟨sending_run, broken_run, requesting_run⟩
theorem witness_DesyncKept : DesyncInv broken ∧ (sees (·.sess) (step broken)) = some .desync :=
  ⟨broken_desync, by decide⟩
/-- A step of the clock, one of the loop context at a return point, and one of the slot. -/
theorem witness_TimeAndParameters :
    let s : State := { up with sched := [.loop], ctl := [.k .bringUpNext], ret := .status false }
    (sees (·.now) (exec .itStep up)).isSome = true ∧ sees (·.now) (step { up with sched := [.clock 5] }) = some 1005 ∧
    s.slot = none ∧ s.nextMove = .loop ∧ sees (·.sess) (step s) = some .desync ∧
    (up.withFetchWord 8 0x10).slot ≠ none ∧ (sees (·.now) (step (up.withFetchWord 8 0x10))).isSome = true :=
  ⟨by decide, by decide, rfl, rfl, by decide, by decide, by decide⟩
theorem witness_EventsOnlyAppended : RunInv broken ∧
    (sees (·.hostOut) (step broken)).isSome = true := ⟨broken_run, by decide⟩
theorem witness_SingleWriters :
    (sees (·.auxScr) (exec (.extAuxbtn ⟨0xC8, 0xD2, 0x10⟩) up)) = some true ∧ Instr.mlCheck ≠ .reset ∧
    Move.isr ≠ .loop ∧ (sees (·.rxPos) ({ up with rxPending := true }.makeMove .isr)).isSome = true := by decide
theorem witness_NeverInterruptsItself : RunInv requesting ∧ requesting.hClk = .rel ∧
    sees (·.hClk) requesting.loopStep = some .low ∧ RunInv { broken with rxPending := true } ∧
    sees (·.rxPending) (State.loopStep { broken with rxPending := true }) = some true :=
  ⟨requesting_run, by decide, by decide,
    ⟨⟨by decide, ⟨by decide, by decide, by decide⟩, by decide, by decide, by decide, by decide, by decide, by decide,
      by decide, by decide⟩, by decide, by decide, by decide, by decide, by decide, by decide⟩, by decide⟩

/-- The masks of a Report whose left and right buttons share a bit (I9 of spec/93_implementation_defined.md). -/
theorem witness_WhereOperationsStop :
    State.reset.rxIe = false ∧ up.rxPending = false ∧ up.txPhase = .off ∧ sending.txPhase = .bitHi ∧
    requesting.txPhase = .req1 ∧ { defaults with stR := 0x01 }.buttonMasksDisjoint = false := by decide

theorem witness_MailboxOperations : up.mb = [] ∧ broken.mb = [0xFA] := by decide
theorem witness_MailboxFifo :
    up.mb = [] ∧ (List.replicate 16 (0x5A : Byte)).length = 16 ∧ [(0x10 : Byte)] ≠ [] ∧
    { up with mb := [0x01, 0x02, 0x03] }.mb = [0x01] ++ 0x02 :: [0x03] := by decide
theorem witness_RingRefinesMailbox : Ring.wf ⟨[(3, 0xAA), (15, 0xFA)], 15, 1⟩ := by
  refine ⟨by decide, by decide, by decide, fun k hk => ?_⟩
  obtain rfl : k = 0 := by simpa using hk
  decide
theorem witness_MailboxWait :
    let s (mb : List Byte) : State := { up with mb := mb, ctl := [.k (.mbPoll 1000)] }
    (s []).ctl = [.k (.mbPoll 1000)] ∧ (s [0xFA]).mb = [0xFA] ∧ (s []).mb = [] ∧ 1000 ≤ (s []).now ∧
    { s [] with now := 999 }.now < 1000 := by decide

/-- Each position of the receiver, both values of a checked bit. -/
theorem witness_ReceiverEdge :
    let s (pos : Fin 11) (c d : Drive) : State :=
      { up with rxPending := true, rxPos := pos, dClk := c, dDat := d, clkPrev := c == .rel }
    (s 0 .rel .rel).rxIe = true ∧ (s 0 .rel .rel).rxPending = true ∧ (s 0 .rel .rel).clk = true ∧
    (s 0 .low .low).clk = false ∧ (s 0 .low .low).dat = false ∧ (s 0 .low .rel).dat = true ∧
    1 ≤ (s 1 .low .low).rxPos.val ∧ (s 8 .low .low).rxPos.val ≤ 8 ∧ (s 9 .low .rel).dat = (s 9 .low .rel).rxPar ∧
    (s 9 .low .low).dat ≠ (s 9 .low .low).rxPar ∧ (s 10 .low .rel).rxPos = 10 ∧ (s 10 .low .rel).dat = true ∧
    (s 10 .low .low).dat = false := by decide
theorem witness_FrameReceived : up.rxIe = true ∧ up.hClk = .rel ∧ up.hDat = .rel ∧ up.rxPos = 0 ∧ up.rxPar = true := by
  decide
theorem witness_FrameWrongParity : up.rxIe = true ∧ up.hClk = .rel ∧ up.hDat = .rel ∧ up.rxPos = 0 ∧ up.rxPar = true :=
  witness_FrameReceived
/-- V-RX4: the frame of 5A with its stop bit inverted is the frame of no byte. -/
theorem witness_InvalidFramePushesNothing :
    [false, false, true, false, true, true, false, true, false, true, false].length = 11 ∧
    (∀ b, [false, false, true, false, true, true, false, true, false, true, false] ≠ frameOf b) ∧
    [false, false, true, false, true, true, false, true, false, true, false] =
      [false, bit 0x5A 0, bit 0x5A 1, bit 0x5A 2, bit 0x5A 3, bit 0x5A 4, bit 0x5A 5, bit 0x5A 6, bit 0x5A 7,
        oddpar 0x5A, false] ∧
    up.rxIe = true ∧ up.hClk = .rel ∧ up.hDat = .rel ∧ up.rxPos = 0 ∧ up.rxPar = true :=
  ⟨by decide, fun b => by simp [frameOf, frameBits], by decide, by decide, by decide, by decide, by decide, by decide⟩
theorem witness_FrameWhileDisabled : State.reset.rxIe = false ∧ State.reset.rxPending = false := by decide
theorem witness_TransmitExcludesReceive : Inv sending ∧ sending.txPhase ≠ .off := ⟨sending_inv, by decide⟩

theorem witness_TransmitStart : up.txPhase = .off ∧ sending.txPhase ≠ .off := by decide
theorem witness_TransmitRequest :
    { up with txPhase := .req1 }.txPhase = .req1 ∧ { up with txPhase := .req2 }.txPhase = .req2 ∧
    { up with txPhase := .req3 }.txPhase = .req3 ∧ up.txPhase ≠ .req1 ∧ up.txPhase ≠ .req2 ∧ up.txPhase ≠ .req3 := by
  decide
/-- Each wait with its condition met, unmet at the deadline, and unmet just before it. -/
theorem witness_TransmitWaits :
    let s (p : TxPhase) (c d : Drive) (dl : Nat) (i : Fin 9) : State :=
      { up with txPhase := p, dClk := c, dDat := d, txDeadline := dl, txI := i }
    (s .waitDev .low .rel 0 0).txPhase = .waitDev ∧ (s .waitDev .low .rel 0 0).clk = false ∧
    (s .waitDev .rel .rel 1000 0).clk = true ∧ (s .waitDev .rel .rel 1000 0).txDeadline ≤ up.now ∧
    up.now < (s .waitDev .rel .rel 1001 0).txDeadline ∧ (s .bitHi .low .rel 1000 0).txPhase = .bitHi ∧
    (s .bitLo .low .rel 0 7).txPhase = .bitLo ∧ (s .bitLo .low .rel 0 7).txI.val < 8 ∧
    (s .bitLo .low .rel 0 8).txI.val = 8 ∧ (s .waitAck .rel .rel 0 8).txPhase = .waitAck ∧
    (s .waitAck .rel .rel 0 8).dat = true ∧ (s .waitAck .rel .low 0 8).dat = false ∧
    (s .ackLow .rel .low 0 8).txPhase = .ackLow ∧ (s .ackLow .rel .low 0 8).dat = false ∧
    (s .ackLow .low .rel 1000 8).dat = true ∧ (s .ackLow .low .rel 1000 8).txDeadline ≤ up.now ∧
    up.now < (s .ackLow .low .rel 1001 8).txDeadline := by decide
theorem witness_TransmitBit :
    let s (i : Fin 9) : State := { up with txPhase := .bitSet, txI := i }
    (s 0).txPhase = .bitSet ∧ (s 0).txI.val = 0 ∧ (s 7).txI.val = 7 ∧ (s 8).txI.val = 8 := by decide
theorem witness_TransmitEnd :
    { up with txPhase := .stop }.txPhase = .stop ∧ { up with txPhase := .done }.txPhase = .done ∧
    { up with ctl := [.k .busStopDat] }.ctl = [.k .busStopDat] := by decide
theorem witness_SendWhole :
    let s : State := { up with ctl := [.op (.txSend 0xF4), .k (.cmdSent 200)] }
    s.slot = none ∧ s.ctl = .op (.txSend 0xF4) :: [.k (.cmdSent 200)] ∧ s.txPhase = .off ∧
    s.par.txAckWaitLow = false ∧ s.dDat = .rel ∧ { defaults with txAckWaitLow := true, tTx := 1 }.txAckWaitLow = true ∧
    0 < { defaults with txAckWaitLow := true, tTx := 1 }.tTx := by decide
theorem witness_SendTimesOut :
    let s : State := { up with ctl := [.op (.txSend 0xF4), .k (.cmdSent 200)] }
    s.slot = none ∧ s.ctl = .op (.txSend 0xF4) :: [.k (.cmdSent 200)] ∧ s.txPhase = .off ∧ s.dClk = .rel ∧
    s.par.tTx ≤ 500 := by decide
theorem witness_SendCommand :
    let s (c : Cont) (r : Ret) : State := { up with ctl := [.k c], ret := r }
    up.txPhase = .off ∧ (s (.cmdSent 200) (.status false)).ctl = .k (.cmdSent 200) :: [] ∧
    (s (.cmdSent 200) (.status false)).ret = .status false ∧ (s (.cmdSent 200) (.status true)).ret = .status true ∧
    (s .hsReply (.byte none)).ctl = .k .hsReply :: [] ∧ (s .hsReply (.byte none)).ret = .byte none ∧
    (s .hsReply (.byte (some 0xFA))).ret = .byte (some 0xFA) ∧
    { up with ctl := [.txRun] }.ctl = .txRun :: [] ∧ { up with ctl := [.txRun] }.txPhase = .off ∧
    (s .resetBat (.reply (some 0xFA))).ctl = .k .resetBat :: [] ∧ (s .resetId (.reply none)).ctl = .k .resetId :: [] ∧
    (s .resetBat (.reply (some 0xFA))).ret = .reply (some 0xFA) ∧ (s .resetId (.reply none)).ret = .reply none := by
  decide
theorem witness_BringUpSteps :
    up.par.sampleRate = none ∧ { defaults with sampleRate := some 0x64 }.sampleRate = some 0x64 ∧
    up.par.mode = .stream ∧ { defaults with mode := .remote }.mode = .remote ∧ up.par.ping[0]? = some 0xE8 ∧
    up.par.ping[16]? = some 0x03 ∧
    { up with ctl := [.k (.rateArg 0x64)], ret := .reply (some 0xFA) }.ctl = .k (.rateArg 0x64) :: [] ∧
    { up with ctl := [.k (.rateArg 0x64)], ret := .reply (some 0xFA) }.ret = .reply (some 0xFA) ∧
    { up with ctl := [.k (.rateArg 0x64)], ret := .reply none }.ret = .reply none := by decide
theorem witness_CommandRows : up.par.sampleRate = none ∧
    { defaults with sampleRate := some 0x64 }.sampleRate = some 0x64 := by decide
theorem witness_BringUpBytes : up.par.ping.length = 17 := by decide
theorem witness_BringUpAbandoned :
    let s (r : Ret) (p : SsStep) : State := { up with ctl := [.k .bringUpNext], ret := r, ssStep := p }
    (s (.status false) .reset).ctl = .k .bringUpNext :: [] ∧ (s (.status false) .reset).ret = .status false ∧
    (s (.reply none) .reset).ret = .reply none ∧ (s (.status true) .rate).ret = .status true ∧
    (s (.reply (some 0xFA)) .mode).ret = .reply (some 0xFA) ∧ (s (.status true) .reset).ssStep = .reset ∧
    (s (.status true) .rate).ssStep = .rate ∧ (s (.status true) .mode).ssStep = .mode ∧
    (s (.status true) (.ping 15)).ssStep = .ping 15 ∧ (15 : Fin 17).val < 16 ∧
    (s (.status true) (.ping 16)).ssStep = .ping 16 ∧ (s (.status true) .enable).ssStep = .enable := by decide
theorem witness_PingRows :
    (16, Instr.ping16) ∈ [(0, Instr.ping00), (1, .ping01), (2, .ping02), (3, .ping03), (4, .ping04), (5, .ping05),
      (6, .ping06), (7, .ping07), (8, .ping08), (9, .ping09), (10, .ping10), (11, .ping11), (12, .ping12),
      (13, .ping13), (14, .ping14), (15, .ping15), (16, .ping16)] ∧
    up.par.ping[16]? = some 0x03 := by decide

/-- V-XD8, V-XD1, V-XD6, V-XD9. -/
theorem witness_ExtendedDecode :
    isExt up.par ⟨0x08, 0xD2, 0x10⟩ = false ∧ isExt up.par ⟨0xC8, 0xD2, 0x10⟩ = true ∧
    isAuxbtn up.par ⟨0xC8, 0xD2, 0x10⟩ = true ∧ isExt up.par ⟨0x48, 0x02, 0x30⟩ = true ∧
    isAuxbtn up.par ⟨0x48, 0x02, 0x30⟩ = false ∧ isExt up.par ⟨0x48, 0xD0, 0x10⟩ = false := by decide
theorem witness_Translate : up.par.buttonMasksDisjoint = true ∧ up.cfgSwap = false ∧
    { up with cfgSwap := true }.cfgSwap = true := by decide
theorem witness_ButtonEdges : (⟨false, false, false, false⟩ : Buttons) = up.btnPrev := by decide
/-- The five cases of a scroll step at their boundaries. -/
theorem witness_ScrollStep :
    { up with cfgScroll := true }.cfgScroll = true ∧ (⟨false, false, false, true⟩ : Buttons).x = true ∧
    tdiv 8 8 ≠ 0 ∧ tdiv 7 8 = 0 ∧ tdiv (0 + 7) 8 = 0 ∧ tdiv (1 + 7) 8 ≠ 0 ∧ up.cfgScroll = false ∧
    decide ((0 : Int) ≠ 0 ∨ (1 : Int) ≠ 0) = true ∧ decide ((0 : Int) ≠ 0 ∨ (0 : Int) ≠ 0) = false := by decide
theorem witness_ScrollBound :
    let s (a : Int) : State := { up with cfgScroll := true, scrollAcc := a }
    (s 7).scrollAcc ≤ 7 ∧ -7 ≤ (s (-7)).scrollAcc ∧ (s 7).cfgScroll = true ∧ tdiv (-7) 8 = 0 := by decide
theorem witness_ScrollExample :
    let s : State := { up with cfgScroll := true }
    (⟨false, false, false, true⟩ : Buttons).x = true ∧ s.cfgScroll = true ∧ s.scrollAcc = 0 ∧
    s.hostSuspended = false := by decide
/-- Just past the first threshold, and not past it. -/
theorem witness_IdleTimer :
    let s (n : Nat) : State := { up with cfgJiggle := true, now := n }
    (s 30001).cfgJiggle = true ∧ (s 30001).hostSuspended = false ∧ (s 30001).jigN < (s 30001).par.jigMax ∧
    (s 30001).now - (s 30001).tLast > ((s 30001).jigN + 1) * (s 30001).par.jigStep ∧
    ¬((s 30000).now - (s 30000).tLast > ((s 30000).jigN + 1) * (s 30000).par.jigStep) := by decide
theorem witness_NudgeCount :
    let s : State := { up with cfgJiggle := true }
    s.cfgJiggle = true ∧ s.hostSuspended = false ∧ s.jigN = 0 ∧ s.tLast < s.now ∧ 0 < s.par.jigStep ∧
    { s with hostSuspended := true }.hostSuspended = true := by decide

theorem witness_IterationBegin : broken.err ≠ 0 ∧ State.reset.sess = .idle ∧ up.err = 0 ∧ up.sess ≠ .idle ∧
    up.sess ≠ .desync := by decide
theorem witness_Recover : { up with ctl := [.k .liRecovered] }.ctl = .k .liRecovered :: [] := by decide
theorem witness_FirstIteration : { up with sess := .idle }.slot = none ∧ { up with sess := .idle }.ctl = [] ∧
    { up with sess := .idle }.sess = .idle := by decide
/-- A heartbeat due at the very period, and one not due just before. -/
theorem witness_MainLoopEntries :
    let p : Params := { defaults with hbEnable := true }
    let s (n : Nat) : State := { up with par := p, now := n, ctl := [.op .mlHeartbeat] }
    { defaults with mode := .remote }.mode = .remote ∧ p.hbEnable = true ∧ p.mode = .stream ∧ (s 0).hbN < p.hbMax ∧
    (s 30000).now - (s 30000).tHb ≥ p.hbPeriod ∧ ¬((s 29999).now - (s 29999).tHb ≥ p.hbPeriod) ∧
    { up with ctl := [.k .liBegun] }.ctl = .k .liBegun :: [] ∧ up.loopState = .normal ∧
    { up with ctl := [.k .liBegun], loopState := .recovering }.loopState = .recovering ∧
    { up with ctl := [.k .liBeat], ret := .status true }.ctl = .k .liBeat :: [] ∧
    { up with ctl := [.k .liBeat], ret := .status true }.ret = .status true ∧
    { up with ctl := [.k .liBeat], ret := .status false }.ret = .status false ∧
    { up with ctl := [.k .liGot], ret := .report none }.ctl = .k .liGot :: [] ∧
    { up with ctl := [.k .liGot], ret := .report none }.ret = .report none ∧
    { up with ctl := [.k .liGot], ret := .report (some ⟨0x09, 0x05, 0xFB⟩) }.ret =
      .report (some ⟨0x09, 0x05, 0xFB⟩) := by decide
theorem witness_HeartbeatWhole :
    let s : State :=
      { up with par := { defaults with hbEnable := true }, now := 30000, ctl := [.op .mlHeartbeat] }
    let w (c : Cont) (r : Ret) (n : Nat) : State :=
      { up with par := { defaults with nStat := n }, ctl := [.k c], ret := r }
    s.ctl = [.op .mlHeartbeat] ∧ 2 * s.par.nStat + 3 ≤ 9 ∧ s.par.hbEnable = true ∧ s.par.mode = .stream ∧
    s.hbN < s.par.hbMax ∧ s.par.hbPeriod ≤ s.now - s.tHb ∧
    (w .hbRequested (.reply none) 3).ctl = .k .hbRequested :: [] ∧
    (w .hbRequested (.reply none) 3).ret = .reply none ∧ (w .hbRequested (.reply (some 0xFA)) 0).par.nStat = 0 ∧
    (w .hbRequested (.reply (some 0xFA)) 1).ret = .reply (some 0xFA) ∧
    (w .hbRequested (.reply (some 0xFA)) 1).par.nStat = 0 + 1 ∧
    (w (.hbByte 1) (.byte none) 3).ctl = .k (.hbByte (0 + 1)) :: [] ∧
    (w (.hbByte 0) (.byte none) 3).ret = .byte none ∧
    (w (.hbByte 0) (.byte (some 0x00)) 3).ret = .byte (some 0x00) := by decide
theorem witness_OverflowCheck : (⟨0x88, 0x7F, 0x00⟩ : Report).b0 &&& defaults.ovfMask ≠ 0 ∧
    (⟨0x08, 0x7F, 0x00⟩ : Report).b0 &&& defaults.ovfMask = 0 := by decide
theorem witness_ReportTaken :
    let s (mb : List Byte) : State := { up with ctl := [.op .getReport], mb := mb }
    let w : State := { up with ctl := [.k .repRequested], ret := .reply (some 0xFA) }
    (s []).slot = none ∧ (s []).ctl = .op .getReport :: [] ∧ (s []).par.mode = .stream ∧
    (s [0x09, 0x05, 0xFB]).mb = 0x09 :: 0x05 :: 0xFB :: [] ∧ w.ctl = .k .repRequested :: [] ∧
    w.ret = .reply (some 0xFA) ∧ w.repN = 0 := by decide
/-- At the very bounds. -/
theorem witness_ReportTimeouts :
    let s (mb : List Byte) : State := { up with ctl := [.op .getReport], mb := mb }
    (s []).slot = none ∧ (s []).ctl = .op .getReport :: [] ∧ (s []).par.mode = .stream ∧ (s []).mb = [] ∧
    (s []).par.tPoll ≤ 20 ∧ (s [0x09]).mb = [0x09] ∧ (s []).par.tRep ≤ 200 ∧ (s [0x09, 0x05]).mb = [0x09, 0x05] ∧
    { up with ctl := [.k .repRequested], ret := .reply none }.ctl = .k .repRequested :: [] ∧
    { up with ctl := [.k .repRequested], ret := .reply none }.ret = .reply none ∧
    { up with ctl := [.k .repRequested], ret := .reply (some 0xFA) }.ret = .reply (some 0xFA) ∧
    { up with ctl := [.k (.repByte true)], ret := .byte none }.ctl = .k (.repByte true) :: [] ∧
    { up with ctl := [.k (.repByte false)], ret := .byte none }.ret = .byte none ∧
    { up with repN := 2 }.repN ≠ 0 ∧ up.repN = 0 := by decide
theorem witness_MotionProcessed :
    let s : State := { up with ctl := [.op .processReport], rep := ⟨0x09, 0x05, 0xFB⟩ }
    s.slot = none ∧ s.ctl = .op .processReport :: [] ∧ isExt s.par s.rep = false ∧ s.rep.b0 &&& s.par.ovfMask = 0 ∧
    s.par.buttonMasksDisjoint = true ∧ s.cfgScroll = false ∧ { s with cfgScroll := true }.cfgScroll = true := by decide
/-- V-XD1, V-XD6, and the example of R288. -/
theorem witness_ReportSuppressed :
    let s (r : Report) : State := { up with ctl := [.op .processReport], rep := r }
    (s ⟨0xC8, 0xD2, 0x10⟩).slot = none ∧ (s ⟨0xC8, 0xD2, 0x10⟩).ctl = .op .processReport :: [] ∧
    isExt defaults (s ⟨0xC8, 0xD2, 0x10⟩).rep = true ∧ isExt defaults (s ⟨0x48, 0x02, 0x30⟩).rep = true ∧
    isExt defaults (s ⟨0x88, 0x7F, 0x00⟩).rep = false ∧ (s ⟨0x88, 0x7F, 0x00⟩).rep.b0 &&& defaults.ovfMask ≠ 0 := by
  decide

end Sys2Proof.Tests
end

