-- ==== Sys2Proof/Proofs/Scope.lean ====
section
/-! PROOFS. The statements of spec/00_scope.md: what a step runs (O3, O4), and that the block's own runs never stop
(O8). -/

namespace Sys2Proof.Machine

open Sys2Proof Sys2Proof.Config

/-! ## The operation slot -/

/-- Log 4: a step takes the operation in the slot. -/
theorem step_slot {s : State} {bs : List Byte} {i : Instr} (hs : s.slot = some bs) (hd : decode bs = .ok i) :
    step s = exec i { s with slot := none } := by
  simp [step, State.stepOnce, State.runSlot, hs, hd]

/-- Log 3: with the slot empty a step is the next move. -/
theorem step_of_noSlot {s : State} (h : s.slot = none) : step s = s.moveTaken.makeMove s.nextMove := by
  simp [step, State.stepOnce, h]

/-- Log 10: enabling an operation leaves the slot alone. -/
@[simp] theorem enable_slot (i : Instr) (s : State) : (s.enable i).slot = s.slot := by
  unfold State.enable
  split <;> rfl

/-- Log 4: the placed word's bytes stand in the slot, whatever they decode to. -/
@[simp] theorem withFetchWord_slot (s : State) (nbits w : Nat) :
    (s.withFetchWord nbits w).slot = some (tableBytes nbits w) := by
  simp only [State.withFetchWord, State.placeWord]
  split
  · rw [enable_slot]
  · rfl

/-- Log 5: a word of the table reads as what its bytes decode to. -/
theorem decode_tableBytes {nbits w : Nat} {i : Instr} (h : decodeTableWord nbits w = some i) :
    decode (tableBytes nbits w) = .ok i := by
  unfold decodeTableWord at h
  cases hd : decode (tableBytes nbits w) with
  | error e => simp [hd, Except.toOption] at h
  | ok j => simpa [hd, Except.toOption] using h

/-- Settles O3. -/
theorem stepRunsSlot : Obligations.StepRunsSlot :=
  ⟨fun _ _ _ hs hd => step_slot hs hd,
    fun s nbits w _ hw => step_slot (withFetchWord_slot s nbits w) (decode_tableBytes hw)⟩

/-! ## The loop context's next step -/

section LoopStep

variable {s : State} {rest : List Task}

theorem loopStep_nil (h : s.ctl = []) : s.loopStep = exec .loopIteration s := by
  simp [State.loopStep, h]

theorem loopStep_op {i : Instr} (h : s.ctl = .op i :: rest) : s.loopStep = exec i { s with ctl := rest } := by
  simp [State.loopStep, h]

theorem loopStep_txRun {i : Instr} (h : s.ctl = .txRun :: rest) (hi : s.txPhase.instr = some i) :
    s.loopStep = exec i s := by
  simp [State.loopStep, h, hi]

/-- R180: only a transmitter that is off has no operation to run next. -/
theorem instr_eq_none {p : TxPhase} : p.instr = none ↔ p = .off := by
  cases p <;> simp [TxPhase.instr]

theorem loopStep_txRun_off (h : s.ctl = .txRun :: rest) (hp : s.txPhase = .off) :
    s.loopStep = .next { s with ctl := rest } := by
  simp [State.loopStep, h, instr_eq_none.mpr hp]

theorem loopStep_k {c : Cont} (h : s.ctl = .k c :: rest) :
    s.loopStep = .next (State.resume c { s with ctl := rest }) := by
  simp [State.loopStep, h]

end LoopStep

/-- Settles O4. -/
theorem stepRunsLoop : Obligations.StepRunsLoop := by
  intro s ms rest hslot hsched
  have hstep : step s = State.loopStep { s with sched := ms } := step_move hslot hsched
  rw [hstep]
  refine ⟨?_, fun i => ?_, fun i => ?_, ?_, fun c => ?_⟩
  · exact loopStep_nil (s := { s with sched := ms })
  · exact loopStep_op (s := { s with sched := ms })
  · exact loopStep_txRun (s := { s with sched := ms })
  · exact loopStep_txRun_off (s := { s with sched := ms })
  · exact loopStep_k (s := { s with sched := ms })

/-! ## The invariant of every step, through the operations of a run -/

section InvOfOperations

variable {s : State}

/-- Whose move it is is no part of the invariant. -/
theorem Inv.moveTaken (h : Inv s) : Inv s.moveTaken := by apply h.frame <;> rfl

/-- R50, R277: time passing keeps it. -/
theorem Inv.clock (h : Inv s) (d : Nat) : Inv { s with now := s.now + d } :=
  { h with
    rx := h.rx.congr rfl rfl rfl
    times := ⟨Nat.le_add_right_of_le h.times.1, Nat.le_add_right_of_le h.times.2⟩ }

/-- R284, R330: a heartbeat is counted only below its bound. -/
theorem Inv.heartbeat (h : Inv s) (hd : s.heartbeatDue = true) : Inv { s with hbN := s.hbN + 1, tHb := s.now } := by
  have hlt : s.hbN < s.par.hbMax := by
    simp only [State.heartbeatDue, Bool.and_eq_true, decide_eq_true_eq] at hd
    exact hd.1.2
  exact { h with rx := h.rx.congr rfl rfl rfl, beats := hlt, times := ⟨h.times.1, Nat.le_refl _⟩ }

/-- R272, R275: a nudge is counted only below its bound. -/
theorem Inv.nudge (h : Inv s) (hd : s.nudgeDue = true) : Inv { s with jigN := s.jigN + 1 } := by
  have hlt : s.jigN < s.par.jigMax := by
    simp only [State.nudgeDue, Bool.and_eq_true, decide_eq_true_eq] at hd
    exact hd.1.2
  exact { h with rx := h.rx.congr rfl rfl rfl, nudges := hlt }

/-- R271: real activity clears the count of nudges. -/
theorem Inv.activity (h : Inv s) : Inv { s with jigN := 0, tLast := s.now } :=
  { h with rx := h.rx.congr rfl rfl rfl, nudges := Nat.zero_le _, times := ⟨Nat.le_refl _, h.times.2⟩ }

/-- R181, R194: a send begins with the interrupt off and the receiver at rest. -/
theorem Inv.txStart (h : Inv s) (b : Byte) : Inv (s.txStart b) := by
  have hready : Inv ((s.setRxIe false).rxReset.drvClk .rel) := h.rxIeOff.rxReset.drvClk .rel
  exact { hready with rx := .rest rfl rfl rfl, exclusion := fun _ => ⟨rfl, rfl⟩ }

/-- R190: a send ends with the interrupt on. -/
theorem Inv.txDone (h : Inv s) : Inv { s.setRxIe true with txPhase := .off } :=
  { h with
    rx := h.rx.congr rfl rfl rfl
    pending := fun _ => rfl
    exclusion := fun hp => absurd rfl hp }

end InvOfOperations

/-! ## The invariant of a run, through the steps of each agent -/

section RunInvOfOperations

variable {s t : State}

/-- A step that touches neither the bus, the interrupt enable nor the phase keeps a run; during a send it must also
leave the control stack alone (R180). -/
theorem RunInv.of_quiet (h : RunInv s) (hq : Quiet s t) (hinv : Inv t) (hctl : ctlOk t.ctl = true)
    (hsend : s.txPhase = .off ∨ t.ctl = s.ctl) : RunInv t where
  inv := hinv
  params := by rw [hq.par]; exact h.params
  noSlot := by rw [hq.slot]; exact h.noSlot
  ctl := hctl
  sending := fun hp => by
    rw [hq.txPhase] at hp
    rw [hsend.resolve_left hp]
    exact h.sending hp
  drives := by rw [hq.txPhase, hq.hClk, hq.hDat]; exact h.drives
  listening := by rw [hq.rxIe, hq.hClk, hq.hDat]; exact h.listening

/-- A quiet step that leaves the control stack alone keeps a run. -/
theorem RunInv.of_sameCtl (h : RunInv s) (hq : Quiet s t) (hinv : Inv t) (hctl : t.ctl = s.ctl) : RunInv t :=
  h.of_quiet hq hinv (hctl ▸ h.ctl) (.inr hctl)

theorem RunInv.returning (h : RunInv s) (r : Ret) : RunInv (s.returning r) :=
  h.of_sameCtl ⟨rfl, rfl, rfl, rfl, rfl, rfl⟩ (h.inv.returning r) rfl

theorem RunInv.raiseDesync (h : RunInv s) (e : LinkError) : RunInv (s.raiseDesync e) :=
  h.of_sameCtl ⟨rfl, rfl, rfl, rfl, rfl, rfl⟩ (h.inv.raiseDesync e) rfl

/-- Log 7: outside a send the loop context may call what its procedures call. -/
theorem RunInv.call (h : RunInv s) (hoff : s.txPhase = .off) {ts : List Task} (hts : ctlOk (ts ++ s.ctl) = true) :
    RunInv (s.call ts) :=
  h.of_quiet ⟨rfl, rfl, rfl, rfl, rfl, rfl⟩ (h.inv.call ts) hts (.inl hoff)

/-- Outside a send the top entry of the control stack may be taken off. -/
theorem RunInv.pop (h : RunInv s) (hoff : s.txPhase = .off) {rest : List Task} (hrest : ctlOk rest = true) :
    RunInv { s with ctl := rest } :=
  h.of_quiet ⟨rfl, rfl, rfl, rfl, rfl, rfl⟩ (by apply h.inv.frame <;> rfl) hrest (.inl hoff)

/-- Only tx_send stands on top of the control stack during a send (R180). -/
theorem RunInv.txPhase_off (h : RunInv s) (htop : s.ctl.head? ≠ some .txRun) : s.txPhase = .off := by
  by_contra hp
  exact htop (h.sending hp)

/-! ### The interrupt context, the device, the host, the clock -/

theorem RunInv.moveTaken (h : RunInv s) : RunInv s.moveTaken :=
  h.of_sameCtl ⟨rfl, rfl, rfl, rfl, rfl, rfl⟩ h.inv.moveTaken rfl

/-- R320: serving an edge writes only the receiver's registers, the mailbox and `err`. -/
theorem rxEdge_quiet (s : State) : Quiet s s.rxEdge ∧ s.rxEdge.ctl = s.ctl := by
  obtain ⟨p, a, r, m, e, heq, -, -⟩ := rxEdge_eq s
  rw [heq]
  exact ⟨⟨rfl, rfl, rfl, rfl, rfl, rfl⟩, rfl⟩

/-- R51: the host's inputs are no part of it. -/
theorem RunInv.hostInputs (h : RunInv s) (swap jiggle scroll suspended : Bool) :
    RunInv { s with inSwap := swap, inJiggle := jiggle, inScroll := scroll, hostSuspended := suspended } :=
  h.of_sameCtl ⟨rfl, rfl, rfl, rfl, rfl, rfl⟩ (by apply h.inv.frame <;> rfl) rfl

/-- R160: the interrupt context always has a step. -/
theorem RunInv.isrStep (h : RunInv s) : ∃ t, s.isrStep = .next t ∧ RunInv t := by
  unfold State.isrStep
  split
  · rename_i hen
    have hie : s.rxIe = true := by
      simp only [State.rxEnabled, Bool.and_eq_true] at hen
      exact hen.1
    obtain ⟨hquiet, hctl⟩ := rxEdge_quiet s
    exact ⟨s.rxEdge, if_pos hen, h.of_sameCtl hquiet (h.inv.rxEdge hie) hctl⟩
  · exact ⟨s, rfl, h⟩

/-! ### The loop context's operations outside a send -/

theorem RunInv.callSendCmd (h : RunInv s) (hoff : s.txPhase = .off) (b : Byte) : RunInv (s.callSendCmd b) :=
  h.call hoff h.ctl

/-- R71, R214: with a table of seventeen bytes every ping step has a byte to send. -/
theorem RunInv.sendPing (h : RunInv s) (hoff : s.txPhase = .off) {i : Nat} (hi : i < pingLen) :
    ∃ t, s.sendPing i = .next t ∧ RunInv t := by
  have hlen : s.par.ping.length = pingLen := by
    have := h.params
    simp only [Params.wf, Bool.and_eq_true, decide_eq_true_eq] at this
    exact this.1.1.2
  obtain ⟨b, hb⟩ := pingRead_some hlen hi
  exact ⟨_, sendPing_eq hb, h.callSendCmd hoff b⟩

/-- I9: the parameters of a run name no bit in two button masks. -/
theorem RunInv.masksDisjoint (h : RunInv s) : s.par.buttonMasksDisjoint = true := by
  have := h.params
  simp only [Params.wf, Bool.and_eq_true] at this
  exact this.2

/-- R231: XD_DECODE writes the auxiliary buttons and its result, nothing else. -/
theorem RunInv.xdDecode (h : RunInv s) : RunInv s.xdDecode := by
  unfold State.xdDecode
  split
  · refine RunInv.returning ?_ _
    split
    · exact h.of_sameCtl ⟨rfl, rfl, rfl, rfl, rfl, rfl⟩ (by apply h.inv.frame <;> rfl) rfl
    · exact h
  · exact h.returning _

/-- R262: SE_STEP writes the accumulator, the event stream and its result, nothing else. -/
theorem RunInv.scrollHeld (h : RunInv s) (dy : Int) : RunInv (s.scrollHeld dy) := by
  have hinv := h.inv.scrollHeld dy
  obtain ⟨a, es, heq⟩ := scrollHeld_eq s dy
  rw [heq] at hinv ⊢
  exact h.of_sameCtl ⟨rfl, rfl, rfl, rfl, rfl, rfl⟩ hinv rfl

theorem RunInv.scrollFree (h : RunInv s) (dx dy : Int) : RunInv (s.scrollFree dx dy) := by
  have hinv := h.inv.scrollFree dx dy
  obtain ⟨es, heq⟩ := scrollFree_eq s dx dy
  rw [heq] at hinv ⊢
  exact h.of_sameCtl ⟨rfl, rfl, rfl, rfl, rfl, rfl⟩ hinv rfl

/-- R290: recovery stops the bus with the interrupt off, so a run goes on from it. -/
theorem RunInv.takeRecovery (h : RunInv s) (hoff : s.txPhase = .off) : RunInv s.takeRecovery where
  inv := h.inv.takeRecovery
  params := h.params
  noSlot := h.noSlot
  ctl := h.ctl
  sending := fun hp => absurd hoff hp
  drives := by simp [hoff, phaseDrives]
  listening := by simp

/-- R181: TX_START under its tx_send leaves both lines released and the interrupt off. -/
theorem RunInv.txStart (h : RunInv s) (b : Byte) (htop : s.ctl.head? = some .txRun) : RunInv (s.txStart b) where
  inv := h.inv.txStart b
  params := h.params
  noSlot := h.noSlot
  ctl := h.ctl
  sending := fun _ => htop
  drives := rfl
  listening := fun _ => ⟨rfl, rfl⟩

/-- R135, R180 to R287: outside a send every operation the loop context's procedures call has a next state. -/
theorem RunInv.exec_ofLoop (h : RunInv s) (hoff : s.txPhase = .off) {i : Instr} (hi : Instr.ofLoop i = true) :
    ∃ t, exec i s = .next t ∧ RunInv t := by
  cases i
  case mbWait t => exact ⟨_, rfl, h.call hoff h.ctl⟩
  case txSend b => exact ⟨_, if_pos hoff, h.call hoff h.ctl⟩
  case sendCmd b t => exact ⟨_, rfl, h.call hoff h.ctl⟩
  case bringUp =>
    exact ⟨_, rfl, h.of_quiet ⟨rfl, rfl, rfl, rfl, rfl, rfl⟩ (by apply h.inv.frame <;> rfl) h.ctl (.inl hoff)⟩
  case ssReset => exact ⟨_, rfl, h.call hoff h.ctl⟩
  case ssRate =>
    refine ⟨_, rfl, ?_⟩
    split
    · exact h.returning _
    · exact h.call hoff h.ctl
  case ssMode => exact ⟨_, rfl, h.callSendCmd hoff _⟩
  case ssPing k => exact h.sendPing hoff (of_decide_eq_true hi)
  case ssEnable =>
    refine ⟨_, rfl, ?_⟩
    split
    · exact h.callSendCmd hoff _
    · exact h.returning _
  case mlIterBegin =>
    refine ⟨_, rfl, ?_⟩
    split <;> exact h.of_sameCtl ⟨rfl, rfl, rfl, rfl, rfl, rfl⟩ (by apply h.inv.frame <;> rfl) rfl
  case mlHeartbeat =>
    refine ⟨_, rfl, ?_⟩
    split
    · rename_i hdue
      have hcounted : RunInv { s with hbN := s.hbN + 1, tHb := s.now } :=
        h.of_sameCtl ⟨rfl, rfl, rfl, rfl, rfl, rfl⟩ (h.inv.heartbeat hdue) rfl
      exact hcounted.call hoff h.ctl
    · exact h.returning _
  case mlCheck =>
    refine ⟨_, rfl, ?_⟩
    split
    · exact (h.raiseDesync _).returning _
    · exact h.returning _
  case getReport =>
    have hcleared : RunInv { s with repN := 0 } :=
      h.of_sameCtl ⟨rfl, rfl, rfl, rfl, rfl, rfl⟩ (by apply h.inv.frame <;> rfl) rfl
    refine ⟨_, rfl, ?_⟩
    split <;> exact hcleared.call hoff h.ctl
  case processReport => exact ⟨_, rfl, h.call hoff h.ctl⟩
  case xdDecode => exact ⟨_, rfl, h.xdDecode⟩
  case rtTranslate => exact ⟨_, if_pos h.masksDisjoint, h.returning _⟩
  case rtEdges vis =>
    have hshown : RunInv { s.emit (edgeEvents s.btnPrev vis) with btnPrev := vis } :=
      h.of_sameCtl ⟨rfl, rfl, rfl, rfl, rfl, rfl⟩ (by apply h.inv.frame <;> rfl) rfl
    exact ⟨_, rfl, hshown.returning _⟩
  case seStep btn dx dy =>
    refine ⟨_, rfl, RunInv.returning ?_ _⟩
    split
    · exact h.scrollHeld dy
    · exact h.scrollFree dx dy
  case itRealEvent activity =>
    refine ⟨_, rfl, ?_⟩
    split
    · exact h.of_sameCtl ⟨rfl, rfl, rfl, rfl, rfl, rfl⟩ h.inv.activity rfl
    · exact h
  case itStep =>
    refine ⟨_, rfl, ?_⟩
    split
    · rename_i hdue
      exact h.of_sameCtl ⟨rfl, rfl, rfl, rfl, rfl, rfl⟩ ((h.inv.nudge hdue).emit _) rfl
    · exact h
  all_goals cases hi

/-- Which operations stand on the control stack: a TX_START with the rest of its send right under it, ML_RECOVER,
and those the loop context's procedures call. -/
theorem ctlOk_op_cases {i : Instr} {rest : List Task} (h : ctlOk (.op i :: rest) = true) :
    (∃ b, i = .txStart b ∧ rest.head? = some .txRun) ∨ i = .mlRecover ∨ Instr.ofLoop i = true := by
  unfold ctlOk at h
  split at h
  · rename_i e; cases e
  · rename_i b rest' e; cases e; exact .inl ⟨b, rfl, rfl⟩
  · rename_i e; cases e; exact .inr (.inl rfl)
  · rename_i e; cases e; simp only [Bool.and_eq_true] at h; exact .inr (.inr h.1)
  all_goals (rename_i e; cases e)

/-- Log 7: an operation on top of the control stack of a run has a next state. -/
theorem RunInv.opStep (h : RunInv s) {i : Instr} {rest : List Task} (hc : s.ctl = .op i :: rest) :
    ∃ t, exec i { s with ctl := rest } = .next t ∧ RunInv t := by
  have hoff : s.txPhase = .off := h.txPhase_off (by simp [hc])
  have hctl : ctlOk (.op i :: rest) = true := hc ▸ h.ctl
  have hpop : RunInv { s with ctl := rest } := h.pop hoff (ctlOk_tail_op hctl)
  rcases ctlOk_op_cases hctl with ⟨b, rfl, htop⟩ | rfl | hi
  · exact ⟨_, if_pos hoff, hpop.txStart b htop⟩
  · exact ⟨_, rfl, hpop.takeRecovery hoff⟩
  · exact hpop.exec_ofLoop hoff hi

/-- Log 7: every return point goes on. -/
theorem RunInv.resume (h : RunInv s) {c : Cont} {rest : List Task} (hc : s.ctl = .k c :: rest) :
    RunInv (State.resume c { s with ctl := rest }) := by
  have hoff : s.txPhase = .off := h.txPhase_off (by simp [hc])
  obtain ⟨hrest, hstop⟩ := ctlOk_tail_k (hc ▸ h.ctl : ctlOk (.k c :: rest) = true)
  have hpop : RunInv { s with ctl := rest } := h.pop hoff hrest
  obtain ⟨ts, hts, hok⟩ := resume_ctl c { s with ctl := rest }
  exact hpop.of_quiet (resume_quiet c _ hstop) (hpop.inv.resume c) (hts ▸ hok rest hrest) (.inl hoff)

/-! ### The operations of a send -/

/-- R194: a step of a send keeps the interrupt off, so it keeps a run if its drives are those of its new phase. -/
theorem RunInv.sendStep (h : RunInv s) (hp : s.txPhase ≠ .off) (hinv : Inv t) (hpar : t.par = s.par)
    (hslot : t.slot = s.slot) (hctl : t.ctl = s.ctl) (hie : t.rxIe = s.rxIe)
    (hdrives : phaseDrives t.txPhase t.hClk t.hDat = true) : RunInv t where
  inv := hinv
  params := by rw [hpar]; exact h.params
  noSlot := by rw [hslot]; exact h.noSlot
  ctl := by rw [hctl]; exact h.ctl
  sending := fun _ => by rw [hctl]; exact h.sending hp
  drives := hdrives
  listening := fun hon => by
    rw [hie, (h.inv.exclusion hp).1] at hon
    cases hon

/-- R183: a wait on the lines changes the phase alone. -/
theorem RunInv.nextPhase (h : RunInv s) (hp : s.txPhase ≠ .off) {p : TxPhase}
    (hdrives : phaseDrives p s.hClk s.hDat = true) : RunInv { s with txPhase := p } :=
  h.sendStep hp (h.inv.phase p hp) rfl rfl rfl rfl hdrives

/-- R191: an aborted send leaves the transmitter off and the interrupt off. -/
theorem RunInv.txAbort (h : RunInv s) (hp : s.txPhase ≠ .off) : RunInv s.txAbort :=
  h.sendStep hp h.inv.txAbort rfl rfl rfl rfl rfl

theorem RunInv.txWait (h : RunInv s) (hp : s.txPhase ≠ .off) (c : Bool) (ht : RunInv t) : RunInv (s.txWait c t) := by
  rcases txWait_cases s t c with ⟨-, heq⟩ | ⟨-, -, heq⟩ | ⟨-, -, heq⟩ <;> rw [heq]
  · exact ht
  · exact h.txAbort hp
  · exact h

/-- R187: the next data bit, or the stop bit after the last, with the clock released in both. -/
theorem RunInv.txNextBit (h : RunInv s) (hp : s.txPhase = .bitLo) : RunInv s.txNextBit := by
  have hon : s.txPhase ≠ .off := by simp [hp]
  have hclk : phaseDrives .bitLo s.hClk s.hDat = true := hp ▸ h.drives
  unfold State.txNextBit
  split
  · exact h.sendStep hon (by apply (h.inv.phase .bitSet hon).frame <;> rfl) rfl rfl rfl rfl hclk
  · exact h.nextPhase hon hclk

/-- R190, D36: TX_DONE enables the interrupt with both lines released. -/
theorem RunInv.txDone (h : RunInv s) (hp : s.txPhase = .done) :
    RunInv { s.setRxIe true with txPhase := .off } where
  inv := h.inv.txDone
  params := h.params
  noSlot := h.noSlot
  ctl := h.ctl
  sending := fun hon => absurd rfl hon
  drives := rfl
  listening := fun _ => by
    have hdrives : phaseDrives .done s.hClk s.hDat = true := hp ▸ h.drives
    simpa [phaseDrives] using hdrives

/-- R180, R182: during a send the operation its phase names has a next state. -/
theorem RunInv.exec_phase (h : RunInv s) {i : Instr} (hi : s.txPhase.instr = some i) :
    ∃ t, exec i s = .next t ∧ RunInv t := by
  have hon : s.txPhase ≠ .off := by
    intro hp
    rw [instr_eq_none.mpr hp] at hi
    cases hi
  have hdrives := h.drives
  cases hp : s.txPhase <;> rw [hp] at hi hdrives <;> cases hi
  case req1 =>
    obtain ⟨-, hdat⟩ : s.hClk = .rel ∧ s.hDat = .rel := by simpa [phaseDrives] using hdrives
    exact ⟨_, inPhase_eq _ hp, h.sendStep hon ((h.inv.drvClk .low).phase .req2 hon) rfl rfl rfl rfl
      (by simp [phaseDrives, hdat])⟩
  case req2 =>
    obtain ⟨hclk, -⟩ : s.hClk = .low ∧ s.hDat = .rel := by simpa [phaseDrives] using hdrives
    exact ⟨_, inPhase_eq _ hp, h.sendStep hon ((h.inv.drvDat .low).phase .req3 hon) rfl rfl rfl rfl
      (by simp [phaseDrives, hclk])⟩
  case req3 =>
    obtain ⟨-, hdat⟩ : s.hClk = .low ∧ s.hDat = .low := by simpa [phaseDrives] using hdrives
    exact ⟨_, inPhase_eq _ hp, h.sendStep hon ((h.inv.drvClk .rel).phase .waitDev hon) rfl rfl rfl rfl
      (by simp [phaseDrives, hdat])⟩
  case waitDev =>
    obtain ⟨hclk, -⟩ : s.hClk = .rel ∧ s.hDat = .low := by simpa [phaseDrives] using hdrives
    exact ⟨_, inPhase_eq _ hp, h.txWait hon _ (h.nextPhase hon (by simp [phaseDrives, hclk]))⟩
  case bitSet =>
    exact ⟨_, inPhase_eq _ hp, h.sendStep hon ((h.inv.drvDat _).phase .bitHi hon) rfl rfl rfl rfl hdrives⟩
  case bitHi => exact ⟨_, inPhase_eq _ hp, h.txWait hon _ (h.nextPhase hon hdrives)⟩
  case bitLo => exact ⟨_, inPhase_eq _ hp, h.txWait hon _ (h.txNextBit hp)⟩
  case stop =>
    have hclk : s.hClk = .rel := by simpa [phaseDrives] using hdrives
    refine ⟨_, inPhase_eq _ hp, h.sendStep hon ((h.inv.drvDat .rel).phase _ hon) rfl rfl rfl rfl ?_⟩
    split <;> simp [phaseDrives, hclk]
  case ackLow => exact ⟨_, if_pos hp, h.txWait hon _ (h.nextPhase hon hdrives)⟩
  case waitAck =>
    have hwait : exec .txWaitAck s = .next (s.txWait (s.clk && s.dat) { s with txPhase := .done }) :=
      (if_neg (by simp [hp])).trans (inPhase_eq _ hp)
    exact ⟨_, hwait, h.txWait hon _ (h.nextPhase hon hdrives)⟩
  case done => exact ⟨_, inPhase_eq _ hp, (h.txDone hp).returning _⟩

/-! ### Every agent -/

/-- R180, R280, R341: the loop context always has a step. -/
theorem RunInv.loopStep (h : RunInv s) : ∃ t, s.loopStep = .next t ∧ RunInv t := by
  match hc : s.ctl with
  | [] =>
    have hoff : s.txPhase = .off := h.txPhase_off (by simp [hc])
    exact ⟨_, loopStep_nil hc, h.call hoff h.ctl⟩
  | .op i :: rest =>
    rw [loopStep_op hc]
    exact h.opStep hc
  | .txRun :: rest =>
    cases hi : s.txPhase.instr with
    | some i =>
      rw [loopStep_txRun hc hi]
      exact h.exec_phase hi
    | none =>
      have hoff : s.txPhase = .off := instr_eq_none.mp hi
      have hrest : ctlOk (.txRun :: rest) = true := hc ▸ h.ctl
      exact ⟨_, loopStep_txRun_off hc hoff, h.pop hoff hrest⟩
  | .k c :: rest => exact ⟨_, loopStep_k hc, h.resume hc⟩

/-- R20, R22, R50, R51: whoever moves, a run goes on. -/
theorem RunInv.makeMove (h : RunInv s) (m : Move) : ∃ t, s.makeMove m = .next t ∧ RunInv t := by
  cases m with
  | isr => exact h.isrStep
  | loop => exact h.loopStep
  | devClk x => exact ⟨_, rfl, h.of_sameCtl ⟨rfl, rfl, rfl, rfl, rfl, rfl⟩ (h.inv.devClk x) rfl⟩
  | devDat x => exact ⟨_, rfl, h.of_sameCtl ⟨rfl, rfl, rfl, rfl, rfl, rfl⟩ (h.inv.devDat x) rfl⟩
  | hostSwap v => exact ⟨_, rfl, h.hostInputs v s.inJiggle s.inScroll s.hostSuspended⟩
  | hostJiggle v => exact ⟨_, rfl, h.hostInputs s.inSwap v s.inScroll s.hostSuspended⟩
  | hostScroll v => exact ⟨_, rfl, h.hostInputs s.inSwap s.inJiggle v s.hostSuspended⟩
  | hostSuspended v => exact ⟨_, rfl, h.hostInputs s.inSwap s.inJiggle s.inScroll v⟩
  | clock d => exact ⟨_, rfl, h.of_sameCtl ⟨rfl, rfl, rfl, rfl, rfl, rfl⟩ (h.inv.clock d) rfl⟩

end RunInvOfOperations

/-- Settles O8: the step is a move of one agent, and every agent's move keeps the invariant of a run. -/
theorem runsNeverStop : Obligations.RunsNeverStop := by
  intro s h
  rw [step_of_noSlot h.noSlot]
  exact h.moveTaken.makeMove s.nextMove

end Sys2Proof.Machine
end

