-- ==== Sys2Proof/Proofs/State.lean ====
section
/-! PROOFS. The statements of spec/10_state.md: what a step keeps (O6), time and the parameters (O10), the events
(O11), who writes which register (O12), the moves of the other agents (O5), reset (O7, O15, O16), the ring of the
mailbox (O19) and bits clocked out while the interrupt is off (O26). -/

namespace Sys2Proof.Machine

open Sys2Proof Sys2Proof.Config

/-! ## What a step and the operations behind it can do -/

section StepCases

variable {s t : State}

/-- Log 10: an operation with an enabling condition that gives a next state had it enabled. -/
theorem next_of_enabled {p : Prop} [Decidable p] {u : State} {r : Refusal}
    (h : (if p then .next u else .refused r : Out) = .next t) : p ∧ t = u := by
  split at h <;> cases h
  exact ⟨‹p›, rfl⟩

/-- Log 3, log 4: a step is the operation in the slot, or the next move. -/
theorem step_cases (h : step s = .next t) :
    (s.slot ≠ none ∧ ∃ i, exec i { s with slot := none } = .next t) ∨
    (s.slot = none ∧ s.moveTaken.makeMove s.nextMove = .next t) := by
  cases hs : s.slot with
  | none => exact .inr ⟨rfl, step_of_noSlot hs ▸ h⟩
  | some bs =>
    cases hd : decode bs with
    | ok i => exact .inl ⟨by simp, i, step_slot hs hd ▸ h⟩
    | error e => simp [step, State.stepOnce, State.runSlot, hs, hd] at h

/-- Log 7: a step of the loop context is an operation, the end of a send, or a return point. -/
theorem loopStep_cases (h : s.loopStep = .next t) :
    (∃ i ctl, exec i { s with ctl := ctl } = .next t ∧ (i = .reset → s.ctl.head? = some (.op .reset))) ∨
    (∃ ctl, t = { s with ctl := ctl }) ∨
    (∃ c ctl, t = State.resume c { s with ctl := ctl }) := by
  match hc : s.ctl with
  | [] => exact .inl ⟨.loopIteration, s.ctl, loopStep_nil hc ▸ h, nofun⟩
  | .op i :: rest => exact .inl ⟨i, rest, loopStep_op hc ▸ h, fun hi => by simp [hi]⟩
  | .txRun :: rest =>
    cases hi : s.txPhase.instr with
    | none =>
      rw [loopStep_txRun_off hc (instr_eq_none.mp hi)] at h
      cases h
      exact .inr (.inl ⟨rest, rfl⟩)
    | some i =>
      refine .inl ⟨i, s.ctl, loopStep_txRun hc hi ▸ h, fun hr => ?_⟩
      subst hr
      cases hp : s.txPhase <;> simp [hp, TxPhase.instr] at hi
  | .k c :: rest =>
    rw [loopStep_k hc] at h
    cases h
    exact .inr (.inr ⟨c, rest, rfl⟩)

/-- R160: a step of the interrupt context serves an edge while the interrupt is enabled, or does nothing. -/
theorem isrStep_cases (h : s.isrStep = .next t) : (s.rxIe = true ∧ t = s.rxEdge) ∨ t = s := by
  unfold State.isrStep at h
  split at h
  · obtain ⟨hen, rfl⟩ := next_of_enabled h
    exact .inl ⟨(Bool.and_eq_true_iff.mp hen).1, rfl⟩
  · cases h
    exact .inr rfl

/-- R189: TX_WAIT_ACK is a wait in either of its phases. -/
theorem txWaitAck_next (h : exec .txWaitAck s = .next t) :
    s.txPhase ≠ .off ∧ ∃ c p, t = s.txWait c { s with txPhase := p } := by
  by_cases hp : s.txPhase = .ackLow
  · have hrun : exec .txWaitAck s = .next (s.txWait (!s.dat) { s with txPhase := .waitAck }) := if_pos hp
    cases hrun.symm.trans h
    exact ⟨by simp [hp], _, _, rfl⟩
  · have hrun : exec .txWaitAck s = s.inPhase .waitAck (s.txWait (s.clk && s.dat) { s with txPhase := .done }) :=
      if_neg hp
    obtain ⟨hwait, rfl⟩ := inPhase_next (hrun ▸ h)
    exact ⟨by simp [hwait], _, _, rfl⟩

/-- R214: a ping byte sent is a call. -/
theorem sendPing_next {i : Nat} (h : s.sendPing i = .next t) : ∃ b, t = s.callSendCmd b := by
  cases hb : pingRead s.par i with
  | none => rw [sendPing_none hb] at h; cases h
  | some b => rw [sendPing_eq hb] at h; cases h; exact ⟨b, rfl⟩

/-- R231: XD_DECODE writes the auxiliary buttons and its result. -/
theorem xdDecode_eq (s : State) : ∃ m r v, s.xdDecode = { s with auxMid := m, auxScr := r, ret := v } := by
  unfold State.xdDecode
  split
  · split
    · exact ⟨_, _, _, rfl⟩
    · exact ⟨s.auxMid, s.auxScr, _, rfl⟩
  · exact ⟨s.auxMid, s.auxScr, _, rfl⟩

end StepCases

/-! ## The invariant of every step -/

section InvOfSteps

variable {s t u : State}

/-- R61: whatever the state before it, `reset` leaves a state of the invariant. -/
theorem inv_of_exec_reset (h : exec .reset s = .next t) : Inv t := by
  cases h
  exact {
    mailbox := Nat.zero_le _
    rx := .rest rfl rfl rfl
    pending := nofun
    level := rfl
    exclusion := fun hp => absurd rfl hp
    scroll := by simp [State.reset]
    nudges := Nat.zero_le _
    beats := Nat.zero_le _
    times := ⟨Nat.le_refl _, Nat.le_refl _⟩
    codes := Nat.zero_le _ }

/-- R182, R183: an operation of one phase keeps it if its result does while a send is in progress. -/
theorem Inv.inPhase {p : TxPhase} (h : s.inPhase p u = .next t) (hp : p ≠ .off) (hu : s.txPhase ≠ .off → Inv u) :
    Inv t := by
  obtain ⟨hph, rfl⟩ := inPhase_next h
  exact hu (hph ▸ hp)

/-- R187: so does going on to the next bit. -/
theorem Inv.txNextBit (h : Inv s) (hon : s.txPhase ≠ .off) : Inv s.txNextBit := by
  unfold State.txNextBit
  split
  · apply (h.phase .bitSet hon).frame <;> rfl
  · exact h.phase .stop hon

theorem Inv.sendPing (h : Inv s) {i : Nat} (he : s.sendPing i = .next t) : Inv t := by
  obtain ⟨b, rfl⟩ := sendPing_next he
  exact h.call _

theorem Inv.xdDecode (h : Inv s) : Inv s.xdDecode := by
  obtain ⟨m, r, v, heq⟩ := xdDecode_eq s
  rw [heq]
  apply h.frame <;> rfl

/-- Every operation keeps the invariant. -/
theorem Inv.exec (h : Inv s) {i : Instr} (he : exec i s = .next t) : Inv t := by
  cases i
  case mbPush v => cases he; exact h.mbPush v
  case mbPull => cases he; exact h.mbPull
  case mbEmpty => cases he; exact h.returning _
  case mbReset => cases he; exact h.mbReset
  case rxEdge =>
    obtain ⟨hen, rfl⟩ := next_of_enabled he
    exact h.rxEdge (Bool.and_eq_true_iff.mp hen).1
  case rxReset => cases he; exact h.rxReset
  -- the transmitter
  case txStart b =>
    obtain ⟨-, rfl⟩ := next_of_enabled he
    exact h.txStart b
  case txReq1 => exact .inPhase he nofun fun hon => (h.drvClk .low).phase .req2 hon
  case txReq2 => exact .inPhase he nofun fun hon => (h.drvDat .low).phase .req3 hon
  case txReq3 => exact .inPhase he nofun fun hon => (h.drvClk .rel).phase .waitDev hon
  case txWaitDev => exact .inPhase he nofun fun hon => h.txWait _ (h.phase .bitSet hon)
  case txBitSet => exact .inPhase he nofun fun hon => (h.drvDat _).phase .bitHi hon
  case txBitHi => exact .inPhase he nofun fun hon => h.txWait _ (h.phase .bitLo hon)
  case txBitLo => exact .inPhase he nofun fun hon => h.txWait _ (h.txNextBit hon)
  case txStop => exact .inPhase he nofun fun hon => (h.drvDat .rel).phase _ hon
  case txWaitAck =>
    obtain ⟨hon, c, p, rfl⟩ := txWaitAck_next he
    exact h.txWait c (h.phase p hon)
  case txDone => exact .inPhase he nofun fun _ => h.txDone.returning _
  case txAbort => cases he; exact h.txAbort
  case txSend b =>
    obtain ⟨-, rfl⟩ := next_of_enabled he
    exact h.call _
  case busStop => cases he; exact (h.drvClk .low).call _
  -- the decoder, the translator, the scroll emulator, the idle timer
  case xdDecode => cases he; exact h.xdDecode
  case rtTranslate =>
    obtain ⟨-, rfl⟩ := next_of_enabled he
    exact h.returning _
  case rtEdges v => cases he; apply h.frame <;> rfl
  case seStep b dx dy =>
    cases he
    refine Inv.returning ?_ _
    split
    · exact h.scrollHeld dy
    · exact h.scrollFree dx dy
  case itRealEvent a => cases he; split <;> [exact h.activity; exact h]
  case itStep =>
    cases he
    split
    · exact (h.nudge ‹_›).emit _
    · exact h
  -- the main loop
  case mlIterBegin => cases he; split <;> (apply h.frame <;> rfl)
  case mlRecover => cases he; exact h.takeRecovery
  case mlHeartbeat =>
    cases he
    split
    · exact (h.heartbeat ‹_›).call _
    · exact h.returning _
  case mlCheck => cases he; split <;> [exact (h.raiseDesync _).returning _; exact h.returning _]
  case getReport => cases he; split <;> (apply h.frame <;> rfl)
  case bringUp | cmdReadData => cases he; apply h.frame <;> rfl
  case ssRate | cmdSetRate => cases he; split <;> (apply h.frame <;> rfl)
  case ssEnable => cases he; split <;> [exact h.call _; exact h.returning _]
  case mbWait | sendCmd | ssReset | ssMode | processReport | loopIteration | cmdReset | cmdEnable | cmdDisable
      | cmdSetRemote | cmdSetStream | cmdStatus =>
    cases he; exact h.call _
  case reset => exact inv_of_exec_reset he
  -- the wire
  case frame | rspAck | rspSelftestOk | rspDeviceId => cases he; exact h.devBits _
  case report r => cases he; apply h.frame <;> rfl
  case extPacket r | extAuxbtn r =>
    cases he
    have hrep : Inv (s.withReport r) := by apply h.frame <;> rfl
    exact hrep.xdDecode
  all_goals exact h.sendPing he

theorem Inv.withCtl (h : Inv s) (ctl : List Task) : Inv { s with ctl := ctl } := by apply h.frame <;> rfl

theorem Inv.loopStep (h : Inv s) (hs : s.loopStep = .next t) : Inv t := by
  rcases loopStep_cases hs with ⟨i, ctl, he, -⟩ | ⟨ctl, rfl⟩ | ⟨c, ctl, rfl⟩
  · exact (h.withCtl ctl).exec he
  · exact h.withCtl ctl
  · exact (h.withCtl ctl).resume c

/-- R20, R22, R50, R51: whoever moves, the invariant is kept. -/
theorem Inv.makeMove (h : Inv s) {m : Move} (hm : s.makeMove m = .next t) : Inv t := by
  cases m with
  | isr =>
    rcases isrStep_cases hm with ⟨hie, rfl⟩ | rfl
    · exact h.rxEdge hie
    · exact h
  | loop => exact h.loopStep hm
  | devClk x => cases hm; exact h.devClk x
  | devDat x => cases hm; exact h.devDat x
  | clock d => cases hm; exact h.clock d
  | hostSwap v | hostJiggle v | hostScroll v | hostSuspended v => cases hm; apply h.frame <;> rfl

end InvOfSteps

/-- Settles O6: an operation placed in the slot and a move of any agent each keep the invariant. -/
theorem invKept : Obligations.InvKept := by
  intro s t h hstep
  rcases step_cases hstep with ⟨-, i, he⟩ | ⟨-, hm⟩
  · have hempty : Inv { s with slot := none } := by apply h.frame <;> rfl
    exact hempty.exec he
  · exact h.moveTaken.makeMove hm

/-! ## Who writes what -/

/-- What the claims on single writers, on time, on the parameters and on the events speak of. -/
structure View where
  auxMid : Bool
  auxScr : Bool
  btnPrev : Buttons
  scrollAcc : Int
  tLast : Nat
  jigN : Nat
  cfgSwap : Bool
  cfgJiggle : Bool
  cfgScroll : Bool
  hbN : Nat
  tHb : Nat
  ssStep : SsStep
  loopState : LoopState
  sess : Sess
  hostOut : List Event
  now : Nat
  par : Params

/-- These parts of a state. -/
def State.view (s : State) : View where
  auxMid := s.auxMid
  auxScr := s.auxScr
  btnPrev := s.btnPrev
  scrollAcc := s.scrollAcc
  tLast := s.tLast
  jigN := s.jigN
  cfgSwap := s.cfgSwap
  cfgJiggle := s.cfgJiggle
  cfgScroll := s.cfgScroll
  hbN := s.hbN
  tHb := s.tHb
  ssStep := s.ssStep
  loopState := s.loopState
  sess := s.sess
  hostOut := s.hostOut
  now := s.now
  par := s.par

/-- What each operation may write of a view (R36 to R45, R52, R88): the operations that are not named write nothing. -/
inductive Instr.Writes : Instr → View → View → Prop
  | nothing (i v) : Writes i v v
  | xdDecode (v m r) : Writes .xdDecode v { v with auxMid := m, auxScr := r }
  | extPacket (v p m r) : Writes (.extPacket p) v { v with auxMid := m, auxScr := r }
  | extAuxbtn (v p m r) : Writes (.extAuxbtn p) v { v with auxMid := m, auxScr := r }
  | rtEdges (v b es) : Writes (.rtEdges b) v { v with btnPrev := b, hostOut := v.hostOut ++ es }
  | seStep (v b dx dy a es) : Writes (.seStep b dx dy) v { v with scrollAcc := a, hostOut := v.hostOut ++ es }
  | itRealEvent (v a t n) : Writes (.itRealEvent a) v { v with tLast := t, jigN := n }
  | itStep (v n es) : Writes .itStep v { v with jigN := n, hostOut := v.hostOut ++ es }
  | mlIterBegin (v a b c l e) :
      Writes .mlIterBegin v { v with cfgSwap := a, cfgJiggle := b, cfgScroll := c, loopState := l, sess := e }
  | mlHeartbeat (v n t) : Writes .mlHeartbeat v { v with hbN := n, tHb := t }
  | mlCheck (v e) : Writes .mlCheck v { v with sess := e }
  | bringUp (v p e) : Writes .bringUp v { v with ssStep := p, sess := e }
  | reset (v w) : w.now = v.now → w.par = v.par → Writes .reset v w

/-- What each return point may write of a view: those that are not named write nothing. -/
inductive Cont.Writes : Cont → View → View → Prop
  | nothing (c v) : Writes c v v
  | bringUpNext (v p e t) : Writes .bringUpNext v { v with ssStep := p, sess := e, tHb := t }
  | hbRequested (v e) : Writes .hbRequested v { v with sess := e }
  | hbByte (v n e) : Writes (.hbByte n) v { v with sess := e }
  | repRequested (v e) : Writes .repRequested v { v with sess := e }
  | repByte (v b e) : Writes (.repByte b) v { v with sess := e }
  | liRecovered (v l) : Writes .liRecovered v { v with loopState := l }

section Views

variable {s t u : State}

theorem Instr.Writes.of_view_eq {i : Instr} (h : t.view = s.view) : Instr.Writes i s.view t.view := by
  rw [h]
  exact .nothing i _

theorem inPhase_view {p : TxPhase} (h : s.inPhase p u = .next t) (hu : u.view = s.view) : t.view = s.view := by
  obtain ⟨-, rfl⟩ := inPhase_next h
  exact hu

theorem txWait_view (c : Bool) (hu : u.view = s.view) : (s.txWait c u).view = s.view := by
  rcases txWait_cases s u c with ⟨-, heq⟩ | ⟨-, -, heq⟩ | ⟨-, -, heq⟩ <;> rw [heq]
  · exact hu
  · rfl

theorem txNextBit_view (s : State) : s.txNextBit.view = s.view := by
  unfold State.txNextBit
  split <;> rfl

theorem rxEdge_view (s : State) : s.rxEdge.view = s.view := by
  obtain ⟨p, a, r, m, e, heq, -, -⟩ := rxEdge_eq s
  rw [heq]
  rfl

theorem devBit_view (s : State) (d : Bool) : (s.devBit d).view = s.view := by
  unfold State.devBit State.serveEdge
  split
  · exact rxEdge_view _
  · rfl

/-- R160 to R173: a frame from the device reaches the receiver and the mailbox, nothing of a view. -/
theorem devBits_view (bits : List Bool) (s : State) : (s.devBits bits).view = s.view := by
  change (bits.foldl State.devBit s).view = s.view
  induction bits generalizing s with
  | nil => rfl
  | cons d bits ih => exact (ih _).trans (devBit_view s d)

theorem xdDecode_view (s : State) : ∃ m r, s.xdDecode.view = { s.view with auxMid := m, auxScr := r } := by
  obtain ⟨m, r, v, heq⟩ := xdDecode_eq s
  exact ⟨m, r, by rw [heq]; rfl⟩

theorem seStep_writes (b : Buttons) (dx dy : Int) (h : exec (.seStep b dx dy) s = .next t) :
    Instr.Writes (.seStep b dx dy) s.view t.view := by
  cases h
  split
  · obtain ⟨a, es, heq⟩ := scrollHeld_eq s dy
    rw [heq]
    exact .seStep _ _ _ _ a es
  · obtain ⟨es, heq⟩ := scrollFree_eq s dx dy
    rw [heq]
    exact .seStep _ _ _ _ 0 es

/-- Every operation writes what the table gives it, and no more. -/
theorem exec_writes {i : Instr} (h : exec i s = .next t) : Instr.Writes i s.view t.view := by
  cases i
  -- the writers
  case xdDecode =>
    cases h
    obtain ⟨m, r, heq⟩ := xdDecode_view s
    rw [heq]
    exact .xdDecode _ m r
  case extPacket p =>
    cases h
    obtain ⟨m, r, heq⟩ := xdDecode_view (s.withReport p)
    rw [heq]
    exact .extPacket s.view p m r
  case extAuxbtn p =>
    cases h
    obtain ⟨m, r, heq⟩ := xdDecode_view (s.withReport p)
    rw [heq]
    exact .extAuxbtn s.view p m r
  case rtEdges b => cases h; exact .rtEdges _ b _
  case seStep b dx dy => exact seStep_writes b dx dy h
  case itRealEvent a => cases h; split <;> [exact .itRealEvent _ a _ _; exact .nothing _ _]
  case itStep => cases h; split <;> [exact .itStep _ _ _; exact .nothing _ _]
  case mlIterBegin => cases h; split <;> exact .mlIterBegin _ _ _ _ _ _
  case mlHeartbeat => cases h; split <;> [exact .mlHeartbeat _ _ _; exact .nothing _ _]
  case mlCheck => cases h; split <;> [exact .mlCheck _ _; exact .nothing _ _]
  case bringUp => cases h; exact .bringUp _ _ _
  case reset => cases h; exact .reset _ _ rfl rfl
  -- the operations that write nothing of a view
  all_goals apply Instr.Writes.of_view_eq
  case rxEdge =>
    obtain ⟨-, rfl⟩ := next_of_enabled h
    exact rxEdge_view s
  case txReq1 | txReq2 | txReq3 | txBitSet | txStop | txDone => exact inPhase_view h rfl
  case txWaitDev | txBitHi => exact inPhase_view h (txWait_view _ rfl)
  case txBitLo => exact inPhase_view h (txWait_view _ (txNextBit_view s))
  case txWaitAck =>
    obtain ⟨-, c, p, rfl⟩ := txWaitAck_next h
    exact txWait_view c rfl
  case txStart | txSend | rtTranslate =>
    obtain ⟨-, rfl⟩ := next_of_enabled h
    rfl
  case ssRate | ssEnable | getReport | cmdSetRate => cases h; split <;> rfl
  case mbPush | mbPull | mbEmpty | mbReset | rxReset | txAbort | mlRecover | mbWait | sendCmd | ssReset | ssMode
      | processReport | loopIteration | busStop | cmdReset | cmdEnable | cmdDisable | cmdSetRemote | cmdSetStream
      | cmdReadData | cmdStatus | report =>
    cases h; rfl
  case frame | rspAck | rspSelftestOk | rspDeviceId => cases h; exact devBits_view _ s
  all_goals
    obtain ⟨b, rfl⟩ := sendPing_next h
    rfl

theorem callStatusBytes_view (s : State) (n : Nat) : (s.callStatusBytes n).view = s.view := by cases n <;> rfl

theorem storeReportByte_view (s : State) (polled : Bool) (v : Byte) :
    (s.storeReportByte polled v).view = s.view := by
  unfold State.storeReportByte
  split <;> rfl

/-- R210: bring_up goes on by writing its position, the Session State and, at its end, the heartbeat's time. -/
theorem bringUpAdvance_writes (s : State) : Cont.Writes .bringUpNext s.view s.bringUpAdvance.view := by
  unfold State.bringUpAdvance
  split
  case h_4 => split <;> exact .bringUpNext _ _ _ _
  all_goals exact .bringUpNext _ _ _ _

/-- Every return point writes what the table gives it, and no more. -/
theorem resume_writes (c : Cont) (s : State) : Cont.Writes c s.view (s.resume c).view := by
  have quiet {c : Cont} {u : State} (hu : u.view = s.view) : Cont.Writes c s.view u.view := hu ▸ .nothing c _
  cases c <;> simp only [State.resume]
  -- the writers
  case bringUpNext =>
    unfold resumeBringUpNext
    split
    · exact bringUpAdvance_writes s
    · exact .bringUpNext _ _ _ _
  case hbRequested =>
    unfold resumeHbRequested
    split
    · exact quiet (callStatusBytes_view s _)
    · exact .hbRequested _ _
  case hbByte =>
    unfold resumeHbByte
    split
    · exact quiet (callStatusBytes_view s _)
    · exact .hbByte _ _ _
  case repRequested => unfold resumeRepRequested; split <;> [exact .nothing _ _; exact .repRequested _ _]
  case repByte =>
    unfold resumeRepByte
    split
    · exact quiet (storeReportByte_view s _ _)
    · split <;> [exact .repByte _ _ _; exact .nothing _ _]
  case liRecovered => exact .liRecovered _ _
  -- the others
  all_goals apply quiet
  case mbPoll => unfold resumeMbPoll; split <;> rfl
  case cmdSent => unfold resumeCmdSent; split <;> rfl
  case hsReply => unfold resumeHsReply; split <;> rfl
  case resetBat => unfold resumeResetBat; split <;> rfl
  case resetId => unfold resumeResetId; split <;> rfl
  case rateArg => unfold resumeRateArg; split <;> rfl
  case prDecoded => unfold resumePrDecoded; split <;> rfl
  case prChecked => unfold resumePrChecked; split <;> rfl
  case prTranslated => unfold resumePrTranslated; split <;> rfl
  case liBegun => unfold resumeLiBegun; split <;> rfl
  case liBeat => unfold resumeLiBeat; split <;> rfl
  case liGot => unfold resumeLiGot; split <;> rfl
  case busStopDat | prScrolled | prEdged => rfl

/-- R22, R50, R51, R320: the other agents' moves write nothing of a view but the clock's move, which adds time. -/
theorem makeMove_view {m : Move} (hm : m ≠ .loop) (h : s.makeMove m = .next t) :
    t.view = s.view ∨ ∃ d, m = .clock d ∧ t = { s with now := s.now + d } := by
  cases m with
  | loop => exact absurd rfl hm
  | isr =>
    rcases isrStep_cases h with ⟨-, rfl⟩ | rfl
    · exact .inl (rxEdge_view s)
    · exact .inl rfl
  | clock d => cases h; exact .inr ⟨d, rfl, rfl⟩
  | devClk x | devDat x | hostSwap v | hostJiggle v | hostScroll v | hostSuspended v => cases h; exact .inl rfl

end Views

/-! ## Time and the parameters -/

section Time

variable {s t : State} {v w : View}

theorem Instr.Writes.now_par {i : Instr} (h : Instr.Writes i v w) : w.now = v.now ∧ w.par = v.par := by
  cases h
  case reset hnow hpar => exact ⟨hnow, hpar⟩
  all_goals exact ⟨rfl, rfl⟩

theorem Cont.Writes.now_par {c : Cont} (h : Cont.Writes c v w) : w.now = v.now ∧ w.par = v.par := by
  cases h <;> exact ⟨rfl, rfl⟩

theorem exec_now_par {i : Instr} (h : exec i s = .next t) : t.now = s.now ∧ t.par = s.par := (exec_writes h).now_par

theorem loopStep_now_par (h : s.loopStep = .next t) : t.now = s.now ∧ t.par = s.par := by
  rcases loopStep_cases h with ⟨i, ctl, he, -⟩ | ⟨ctl, rfl⟩ | ⟨c, ctl, rfl⟩
  · exact exec_now_par (s := { s with ctl := ctl }) he
  · exact ⟨rfl, rfl⟩
  · exact (resume_writes c { s with ctl := ctl }).now_par

theorem makeMove_now_par {m : Move} (h : s.makeMove m = .next t) :
    s.now ≤ t.now ∧ t.par = s.par ∧ ((∀ d, m ≠ .clock d) → t.now = s.now) := by
  have still (hsame : t.now = s.now ∧ t.par = s.par) :
      s.now ≤ t.now ∧ t.par = s.par ∧ ((∀ d, m ≠ .clock d) → t.now = s.now) :=
    ⟨hsame.1.ge, hsame.2, fun _ => hsame.1⟩
  by_cases hm : m = .loop
  · subst hm
    exact still (loopStep_now_par h)
  · rcases makeMove_view hm h with hv | ⟨d, rfl, rfl⟩
    · exact still ⟨congrArg View.now hv, congrArg View.par hv⟩
    · exact ⟨Nat.le_add_right _ _, rfl, fun hd => absurd rfl (hd d)⟩

end Time

/-- Settles O10. -/
theorem timeAndParameters : Obligations.TimeAndParameters := by
  refine ⟨fun _ _ _ => exec_now_par, fun s t h => ?_, fun s t hcase h => ?_⟩
  · rcases step_cases h with ⟨-, i, he⟩ | ⟨-, hm⟩
    · exact ⟨(exec_now_par he).1.ge, (exec_now_par he).2⟩
    · obtain ⟨hle, hpar, -⟩ := makeMove_now_par hm
      exact ⟨hle, hpar⟩
  · rcases step_cases h with ⟨-, i, he⟩ | ⟨hslot, hm⟩
    · exact (exec_now_par he).1
    · obtain ⟨-, -, hnow⟩ := makeMove_now_par hm
      exact hnow (hcase.resolve_left (not_not_intro hslot))

/-! ## The events -/

section Events

variable {s t : State} {v w : View}

theorem Instr.Writes.events {i : Instr} (h : Instr.Writes i v w) (hi : i ≠ .reset) :
    ∃ es, w.hostOut = v.hostOut ++ es := by
  cases h
  case rtEdges es | seStep es | itStep es => exact ⟨es, rfl⟩
  case reset => exact absurd rfl hi
  all_goals exact ⟨[], (List.append_nil _).symm⟩

theorem Cont.Writes.events {c : Cont} (h : Cont.Writes c v w) : w.hostOut = v.hostOut := by cases h <;> rfl

/-- R340: the loop context of a run calls no reset. -/
theorem RunInv.no_reset (h : RunInv s) : s.ctl.head? ≠ some (.op .reset) := by
  intro htop
  match hc : s.ctl with
  | [] => simp [hc] at htop
  | x :: rest =>
    obtain rfl : x = .op .reset := by simpa [hc] using htop
    have hctl : ctlOk (.op .reset :: rest) = true := hc ▸ h.ctl
    rcases ctlOk_op_cases hctl with ⟨b, hb, -⟩ | hb | hb <;> cases hb

theorem RunInv.loopStep_events (h : RunInv s) (hs : s.loopStep = .next t) : ∃ es, t.hostOut = s.hostOut ++ es := by
  rcases loopStep_cases hs with ⟨i, ctl, he, hi⟩ | ⟨ctl, rfl⟩ | ⟨c, ctl, rfl⟩
  · exact (exec_writes he).events fun hr => h.no_reset (hi hr)
  · exact ⟨[], (List.append_nil _).symm⟩
  · exact ⟨[], by rw [List.append_nil]; exact (resume_writes c { s with ctl := ctl }).events⟩

end Events

/-- Settles O11: in a run the slot is empty, and of the agents only the loop context writes the events. -/
theorem eventsOnlyAppended : Obligations.EventsOnlyAppended := by
  intro s t h hstep
  rw [step_of_noSlot h.noSlot] at hstep
  by_cases hm : s.nextMove = .loop
  · rw [hm] at hstep
    exact h.moveTaken.loopStep_events hstep
  · refine ⟨[], ?_⟩
    rw [List.append_nil]
    rcases makeMove_view hm hstep with hv | ⟨d, -, rfl⟩
    · exact congrArg View.hostOut hv
    · rfl

/-! ## Single writers -/

section SingleWriters

variable {v w : View}

/-- R36 to R45, R88: the writers of each register, read off the table of the operations. -/
theorem Instr.Writes.writers {i : Instr} (h : Instr.Writes i v w) (hi : i ≠ .reset) :
    ((w.auxMid = v.auxMid ∧ w.auxScr = v.auxScr) ∨ i = .xdDecode ∨ ∃ r, i = .extPacket r ∨ i = .extAuxbtn r) ∧
    (w.btnPrev = v.btnPrev ∨ ∃ b, i = .rtEdges b) ∧
    (w.scrollAcc = v.scrollAcc ∨ ∃ b x y, i = .seStep b x y) ∧
    (w.tLast = v.tLast ∨ ∃ a, i = .itRealEvent a) ∧
    (w.jigN = v.jigN ∨ i = .itStep ∨ ∃ a, i = .itRealEvent a) ∧
    ((w.cfgSwap = v.cfgSwap ∧ w.cfgJiggle = v.cfgJiggle ∧ w.cfgScroll = v.cfgScroll) ∨ i = .mlIterBegin) ∧
    ((w.hbN = v.hbN ∧ w.tHb = v.tHb) ∨ i = .mlHeartbeat) ∧
    (w.ssStep = v.ssStep ∨ i = .bringUp) ∧ (w.loopState = v.loopState ∨ i = .mlIterBegin) ∧
    (w.sess = v.sess ∨ i = .bringUp ∨ i = .mlIterBegin ∨ i = .mlCheck) := by
  cases h
  case reset => exact absurd rfl hi
  all_goals simp

/-- The same of the return points. -/
theorem Cont.Writes.writers {c : Cont} (h : Cont.Writes c v w) :
    w.auxMid = v.auxMid ∧ w.auxScr = v.auxScr ∧ w.btnPrev = v.btnPrev ∧ w.scrollAcc = v.scrollAcc ∧
    w.tLast = v.tLast ∧ w.jigN = v.jigN ∧ w.cfgSwap = v.cfgSwap ∧ w.cfgJiggle = v.cfgJiggle ∧
    w.cfgScroll = v.cfgScroll ∧ w.hbN = v.hbN ∧ (w.tHb = v.tHb ∨ c = .bringUpNext) ∧
    (w.ssStep = v.ssStep ∨ c = .bringUpNext) ∧ (w.loopState = v.loopState ∨ c = .liRecovered) ∧
    (w.sess = v.sess ∨ c = .bringUpNext ∨ c = .hbRequested ∨ (∃ left, c = .hbByte left) ∨ c = .repRequested ∨
      ∃ polled, c = .repByte polled) := by
  cases h <;> simp

end SingleWriters

/-- Settles O12. -/
theorem singleWriters : Obligations.SingleWriters := by
  refine ⟨fun i s t h hi => (exec_writes h).writers hi, fun c s => (resume_writes c s).writers, fun m s t hm h => ?_⟩
  rcases makeMove_view hm h with hv | ⟨d, -, rfl⟩
  · simp only [State.view, View.mk.injEq] at hv
    tauto
  · simp

/-! ## The moves of the other agents -/

/-- R160: with an edge to serve the interrupt context runs RX_EDGE. -/
theorem isrStep_enabled {s : State} (hie : s.rxIe = true) (hp : s.rxPending = true) :
    s.isrStep = exec .rxEdge s := if_pos (by simp [State.rxEnabled, hie, hp])

/-- R160: else it does nothing. -/
theorem isrStep_disabled {s : State} (h : s.rxIe = false ∨ s.rxPending = false) : s.isrStep = .next s :=
  if_neg (by rcases h with h | h <;> simp [State.rxEnabled, h])

/-- Settles O5. -/
theorem stepRunsAgents : Obligations.StepRunsAgents := by
  intro s ms hslot
  refine ⟨fun hs hie hp => ?_, fun hs hoff => ?_, ?_, ?_, ?_, ?_, ?_, ?_, ?_⟩
  · rw [step_move hslot hs]
    exact isrStep_enabled (s := { s with sched := ms }) hie hp
  · rw [step_move hslot hs]
    exact isrStep_disabled (s := { s with sched := ms }) hoff
  all_goals exact fun _ hs => step_move hslot hs

/-! ## Reset -/

/-- Settles O15: each value of the table is what the record of power-on holds, and `reset` takes it from there. -/
theorem resetValues : Obligations.ResetValues := by
  refine ⟨fun s => ⟨_, rfl, ?_⟩, ?_⟩
  · and_intros <;> rfl
  · and_intros <;> rfl

/-- Settles O16. -/
theorem resetKeepsEnvironment : Obligations.ResetKeepsEnvironment :=
  fun _ => ⟨_, rfl, rfl, rfl, rfl, rfl, rfl, rfl, rfl, rfl, rfl, rfl⟩

/-- R61, R340: power-on is a state that `reset` leaves as it is, so it meets the invariant of every step. -/
theorem inv_reset : Inv State.reset := inv_of_exec_reset (s := State.reset) rfl

theorem runInv_reset : RunInv State.reset where
  inv := inv_reset
  params := by decide
  noSlot := rfl
  ctl := rfl
  sending := fun hp => absurd rfl hp
  drives := rfl
  listening := nofun

theorem desyncInv_reset : DesyncInv State.reset where
  run := runInv_reset
  fed := rfl
  raised := ⟨nofun, nofun⟩
  desync := nofun

/-- Settles O7. -/
theorem invariantsAtReset : Obligations.InvariantsAtReset := ⟨inv_reset, runInv_reset, desyncInv_reset⟩

/-! ## The ring of the mailbox -/

section RingRefinement

variable {r : Ring}

/-- R32: the slots in use are distinct from the next one to be written. -/
theorem Ring.index_ne_index {k n : Nat} (hk : k < n) (hn : n < mbCap) : r.index k ≠ r.index n := by
  unfold Ring.index mbCap at *
  omega

/-- R141: a push leaves the bytes of the slots in use alone. -/
theorem memRead_push_slot (v : Byte) {k : Nat} (hk : k < r.cnt) (hcap : r.cnt < mbCap) :
    memRead (memWrite r.slots (r.index r.cnt) v) (r.index k) = memRead r.slots (r.index k) :=
  memRead_memWrite_other _ v (Ring.index_ne_index hk hcap)

/-- R32: every slot in use holds a byte, so the sequence is as long as the count says. -/
theorem Ring.seq_length (h : r.wf) : r.seq.length = r.cnt := by
  obtain ⟨-, -, -, hslots⟩ := h
  have hall : (List.range r.cnt).countP (fun k => (memRead r.slots (r.index k)).isSome) = (List.range r.cnt).length :=
    List.countP_eq_length.mpr fun k hk => hslots k (List.mem_range.mp hk)
  rw [Ring.seq, List.length_filterMap_eq_countP, hall, List.length_range]

theorem Ring.push_of_room (v : Byte) (h : r.cnt < mbCap) :
    r.push v = { r with slots := memWrite r.slots (r.index r.cnt) v, cnt := r.cnt + 1 } := if_pos h

theorem Ring.push_of_full (v : Byte) (h : ¬ r.cnt < mbCap) : r.push v = r := if_neg h

theorem Ring.push_wf (h : r.wf) (v : Byte) : (r.push v).wf := by
  by_cases hcap : r.cnt < mbCap
  · obtain ⟨hmem, htail, -, hslots⟩ := h
    rw [Ring.push_of_room v hcap]
    refine ⟨memWrite_wf _ v hmem, htail, hcap, fun k hk => ?_⟩
    change (memRead (memWrite r.slots (r.index r.cnt) v) (r.index k)).isSome = true
    rcases Nat.lt_succ_iff_lt_or_eq.mp hk with hlt | rfl
    · rw [memRead_push_slot v hlt hcap]
      exact hslots k hlt
    · rw [memRead_memWrite_same]
      rfl
  · rw [Ring.push_of_full v hcap]
    exact h

/-- R141: with room in the ring the pushed byte becomes the newest. -/
theorem Ring.push_seq_of_room (v : Byte) (hcap : r.cnt < mbCap) : (r.push v).seq = r.seq ++ [v] := by
  rw [Ring.push_of_room v hcap]
  change (List.range (r.cnt + 1)).filterMap (fun k => memRead (memWrite r.slots (r.index r.cnt) v) (r.index k)) = _
  have hold : (List.range r.cnt).filterMap (fun k => memRead (memWrite r.slots (r.index r.cnt) v) (r.index k)) =
      r.seq := List.filterMap_congr fun k hk => memRead_push_slot v (List.mem_range.mp hk) hcap
  rw [List.range_succ, List.filterMap_append, hold, List.filterMap_cons, memRead_memWrite_same]
  rfl

theorem Ring.push_seq (h : r.wf) (v : Byte) : (r.push v).seq = mailboxPush r.seq v := by
  by_cases hcap : r.cnt < mbCap
  · rw [Ring.push_seq_of_room v hcap, mailboxPush_room v (by rwa [Ring.seq_length h])]
  · rw [Ring.push_of_full v hcap, mailboxPush_full v (by rw [Ring.seq_length h]; omega)]

/-- R32: after a pull the k-th oldest byte is the one that was next to it. -/
theorem Ring.pull_index (hne : r.cnt ≠ 0) (k : Nat) : r.pull.index k = r.index (k + 1) := by
  rw [Ring.pull, if_neg hne]
  unfold Ring.index mbCap
  dsimp only
  omega

theorem Ring.pull_cnt (hne : r.cnt ≠ 0) : r.pull.cnt = r.cnt - 1 := by rw [Ring.pull, if_neg hne]

theorem Ring.pull_slots (r : Ring) : r.pull.slots = r.slots := by
  unfold Ring.pull
  split <;> rfl

theorem Ring.pull_wf (h : r.wf) : r.pull.wf := by
  by_cases hne : r.cnt = 0
  · rwa [Ring.pull, if_pos hne]
  · obtain ⟨hmem, -, hcnt, hslots⟩ := h
    refine ⟨ring_pull_slots_wf hmem, ?_, ?_, fun k hk => ?_⟩
    · rw [Ring.pull, if_neg hne]
      exact Nat.mod_lt _ (by decide)
    · rw [Ring.pull_cnt hne]
      omega
    · rw [Ring.pull_cnt hne] at hk
      rw [Ring.pull_slots, Ring.pull_index hne]
      exact hslots (k + 1) (by omega)

/-- R32: the oldest byte stands at the tail. -/
theorem Ring.index_zero (h : r.wf) : r.index 0 = r.tail := by
  obtain ⟨-, htail, -, -⟩ := h
  exact Nat.mod_eq_of_lt htail

/-- R32, R142: a ring that holds bytes is the byte at its tail before what a pull leaves. -/
theorem Ring.seq_eq_cons (h : r.wf) (hne : r.cnt ≠ 0) :
    ∃ v, memRead r.slots r.tail = some v ∧ r.seq = v :: r.pull.seq := by
  have ⟨_, _, _, hslots⟩ := h
  have hfirst := hslots 0 (Nat.pos_of_ne_zero hne)
  rw [Ring.index_zero h] at hfirst
  obtain ⟨v, hv⟩ := Option.isSome_iff_exists.mp hfirst
  refine ⟨v, hv, ?_⟩
  obtain ⟨n, hn⟩ := Nat.exists_eq_succ_of_ne_zero hne
  have hrest : r.pull.seq = (List.range n).filterMap fun k => memRead r.slots (r.index (k + 1)) := by
    rw [Ring.seq, Ring.pull_slots, Ring.pull_cnt hne, hn]
    exact List.filterMap_congr fun k _ => by rw [Ring.pull_index hne]
  rw [hrest, Ring.seq, hn, List.range_succ_eq_map, List.filterMap_cons, Ring.index_zero h, hv, List.filterMap_map]
  rfl

/-- R144: an empty ring is the empty sequence. -/
theorem Ring.seq_of_cnt_zero (h : r.cnt = 0) : r.seq = [] := by simp [Ring.seq, h]

/-- R142: a pull of the ring is a pull of the sequence. -/
theorem Ring.pull_refines (h : r.wf) : r.pulled = r.seq.head? ∧ r.pull.seq = r.seq.tail := by
  by_cases hne : r.cnt = 0
  · simp [Ring.pulled, Ring.pull, hne, Ring.seq_of_cnt_zero]
  · obtain ⟨v, hv, hseq⟩ := Ring.seq_eq_cons h hne
    rw [Ring.pulled, if_neg hne, hv, hseq]
    exact ⟨rfl, rfl⟩

theorem Ring.reset_wf (h : r.wf) : r.reset.wf := by
  obtain ⟨hmem, -, -, -⟩ := h
  exact ⟨ring_reset_slots_wf hmem, (by decide : 0 < mbCap), Nat.zero_le _, nofun⟩

theorem Ring.initial_wf : Ring.initial.wf := ⟨ring_initial_slots_wf, by decide, Nat.zero_le _, nofun⟩

end RingRefinement

/-- Settles O19. -/
theorem ringRefinesMailbox : Obligations.RingRefinesMailbox := by
  refine ⟨fun r v h => ⟨Ring.push_wf h v, Ring.push_seq h v⟩, fun r h => ?_,
    fun r h => ⟨Ring.reset_wf h, Ring.seq_of_cnt_zero rfl⟩, Ring.initial_wf, Ring.seq_of_cnt_zero rfl⟩
  obtain ⟨hpulled, hseq⟩ := Ring.pull_refines h
  exact ⟨hpulled, Ring.pull_wf h, hseq⟩

/-! ## Bits clocked out while the interrupt is off -/

section InterruptOff

variable {s : State}

/-- R54, R55: with the interrupt off a change of the device's clock drive is lost. -/
theorem devClk_of_disabled (h : s.rxIe = false) (x : Drive) :
    s.devClk x = { s with dClk := x, clkPrev := wiredAnd s.hClk x } := by
  simp only [State.devClk, State.edgeDetect, State.clk, h, Bool.and_false, Bool.or_false]

theorem serveEdge_of_disabled (h : s.rxIe = false) : s.serveEdge = s := if_neg (by simp [State.rxEnabled, h])

/-- R160: with the interrupt off a bit of the device changes only the lines. -/
theorem devBit_of_disabled (h : s.rxIe = false) (d : Bool) :
    s.devBit d = { s with dClk := .low, dDat := driveOf d, clkPrev := false } := by
  have hset : ((s.devClk .rel).devDat (driveOf d)).rxIe = false := h
  have hfall : (((s.devClk .rel).devDat (driveOf d)).devClk .low).rxIe = false := h
  unfold State.devBit
  rw [serveEdge_of_disabled hfall, devClk_of_disabled hset, devClk_of_disabled h, wiredAnd_low_right]
  rfl

theorem foldl_devBit_of_disabled (bits : List Bool) (h : s.rxIe = false) :
    ∃ c d k, bits.foldl State.devBit s = { s with dClk := c, dDat := d, clkPrev := k } := by
  induction bits generalizing s with
  | nil => exact ⟨s.dClk, s.dDat, s.clkPrev, rfl⟩
  | cons b bits ih =>
    obtain ⟨c, d, k, heq⟩ := ih (s := s.devBit b) (by rw [devBit_of_disabled h]; exact h)
    exact ⟨c, d, k, by rw [List.foldl_cons, heq, devBit_of_disabled h]⟩

theorem devBits_of_disabled (bits : List Bool) (h : s.rxIe = false) :
    s.devBits bits = { s with dClk := .rel, dDat := .rel, clkPrev := wiredAnd s.hClk .rel } := by
  obtain ⟨c, d, k, heq⟩ := foldl_devBit_of_disabled bits h
  unfold State.devBits
  rw [heq, devClk_of_disabled (s := { s with dClk := c, dDat := d, clkPrev := k }) h]
  rfl

end InterruptOff

/-- Settles O26. -/
theorem frameWhileDisabled : Obligations.FrameWhileDisabled :=
  fun bits data p _ hie _ =>
    ⟨devBits_of_disabled bits hie, congrArg Host.Outcome.next (devBits_of_disabled (frameBits data p) hie)⟩

end Sys2Proof.Machine
end

/-! PROOFS. The statements of spec/20_memory.md: a send shuts the receiver out (O27), where operations stop (O14),
the rows of the ping table (O40), and the mailbox bytes that become a Report (O57). -/

namespace Sys2Proof.Machine

open Sys2Proof Sys2Proof.Config

/-! ## Operations outside their condition -/

section Refusals

variable {s : State}

/-- R160: without an enabled interrupt and a pending edge there is no edge to serve. -/
theorem rxEdge_refused (h : s.rxIe = false ∨ s.rxPending = false) : exec .rxEdge s = .refused .notEnabled :=
  if_neg (by rcases h with h | h <;> simp [State.rxEnabled, h])

/-- R182: an operation of one phase is refused in every other. -/
theorem inPhase_refused {p : TxPhase} (t : State) (h : s.txPhase ≠ p) : s.inPhase p t = .refused .notEnabled :=
  if_neg h

/-- R189: TX_WAIT_ACK has two phases, and is refused outside both. -/
theorem txWaitAck_refused (hwait : s.txPhase ≠ .waitAck) (hlow : s.txPhase ≠ .ackLow) :
    exec .txWaitAck s = .refused .notEnabled :=
  (if_neg hlow).trans (inPhase_refused _ hwait)

/-- R180: sends do not nest. -/
theorem send_refused_while_sending (h : s.txPhase ≠ .off) (b : Byte) :
    exec (.txStart b) s = .refused .txBusy ∧ exec (.txSend b) s = .refused .txBusy :=
  ⟨if_neg h, if_neg h⟩

/-- R71: no location of PING stands at an index from 17 on. -/
theorem pingRead_none (p : Params) {i : Nat} (h : pingLen ≤ i) : pingRead p i = none := if_neg (by omega)

/-- Log 15. -/
theorem rtTranslate_refused (h : s.par.buttonMasksDisjoint = false) :
    exec .rtTranslate s = .refused .overlappingButtonMasks := if_neg (by simp [h])

end Refusals

/-- Settles O14. -/
theorem whereOperationsStop : Obligations.WhereOperationsStop :=
  fun s => ⟨rxEdge_refused, inPhase_refused _, inPhase_refused _, inPhase_refused _, inPhase_refused _,
    inPhase_refused _, inPhase_refused _, inPhase_refused _, inPhase_refused _, txWaitAck_refused, inPhase_refused _,
    fun b h => send_refused_while_sending h b, fun _ hi => sendPing_none (pingRead_none s.par hi), rtTranslate_refused⟩

/-! ## A send in progress -/

/-- Settles O27: a send keeps the interrupt off, and with it off no edge is served. -/
theorem transmitExcludesReceive : Obligations.TransmitExcludesReceive := by
  intro bits s hinv hsending
  obtain ⟨hie, -⟩ := hinv.exclusion hsending
  exact ⟨rxEdge_refused (.inl hie), isrStep_disabled (.inl hie), devBits_of_disabled bits hie⟩

/-! ## The rows of the ping table -/

/-- R71: inside the table a read is that of the list. -/
theorem pingRead_eq_getElem? (p : Params) {i : Nat} (h : i < pingLen) : pingRead p i = p.ping[i]? := if_pos h

/-- R120: the row of an index is inside the table and sends the byte there. -/
theorem exec_pingInstr {k : Nat} {i : Instr} (h : pingInstr k = some i) :
    k < pingLen ∧ ∀ s, exec i s = s.sendPing k := by
  unfold pingInstr at h
  split at h <;> cases h
  all_goals exact ⟨by decide, fun _ => rfl⟩

/-- Settles O40: the list of the statement is the table that the decoder reads. -/
theorem pingRows : Obligations.PingRows := by
  intro k i b s hrow hbyte
  have htable : pingInstr k = some i := (by decide : ∀ r ∈ _, pingInstr r.1 = some r.2) (k, i) hrow
  obtain ⟨hk, hexec⟩ := exec_pingInstr htable
  rw [hexec s]
  exact sendPing_eq ((pingRead_eq_getElem? s.par hk).trans hbyte)

/-! ## Three bytes become a Report -/

section ReportBytes

variable {s : State} {rest : List Task} {b : Byte} {ms : List Byte} {polled : Bool}

/-- Log 7: a move of the loop context is its next step. -/
theorem runMoves_loop_cons {t : State} {moves : List Move} (hslot : s.slot = none) (h : s.loopStep = .next t) :
    runMoves (.loop :: moves) s = runMoves moves t := runMoves_cons hslot h

/-- R146: a waiting byte ends the poll loop of mb_wait whatever its deadline. -/
theorem loopStep_mbPoll_waiting {deadline : Nat} (hctl : s.ctl = .k (.mbPoll deadline) :: rest)
    (hmb : s.mb = b :: ms) :
    s.loopStep = .next { s with mb := ms, ret := .byte (some b), ctl := rest } := by
  rw [loopStep_k hctl]
  simp [State.resume, resumeMbPoll, State.mbEmpty, State.mbPull, hmb]

/-- R146: mb_wait with a byte waiting takes it and returns it. -/
theorem runMoves_mbWait_waiting {t : Nat} (hslot : s.slot = none) (hctl : s.ctl = .op (.mbWait t) :: rest)
    (hmb : s.mb = b :: ms) :
    runMoves [.loop, .loop] s = .next { s with mb := ms, ret := .byte (some b), ctl := rest } := by
  have hcall : s.loopStep = .next { s with ctl := .k (.mbPoll (s.now + t)) :: rest } := loopStep_op hctl
  rw [runMoves_loop_cons hslot hcall]
  exact runMoves_loop_cons hslot (loopStep_mbPoll_waiting rfl hmb)

/-- R285: get_report stores the byte its wait returned. -/
theorem loopStep_repByte_got (hctl : s.ctl = .k (.repByte polled) :: rest) (hret : s.ret = .byte (some b)) :
    s.loopStep = .next (State.storeReportByte polled b { s with ctl := rest }) := by
  rw [loopStep_k hctl]
  simp [State.resume, resumeRepByte, Ret.byteGot, hret]

/-- R285: get_report's wait for a byte, one waiting, ends with that byte stored. -/
theorem runMoves_reportByte {t : Nat} (hslot : s.slot = none)
    (hctl : s.ctl = .op (.mbWait t) :: .k (.repByte polled) :: rest) (hmb : s.mb = b :: ms) :
    runMoves [.loop, .loop, .loop] s =
      .next (State.storeReportByte polled b { s with mb := ms, ret := .byte (some b), ctl := rest }) := by
  rw [show [Move.loop, .loop, .loop] = [.loop, .loop] ++ [.loop] from rfl,
    runMoves_append (runMoves_mbWait_waiting hslot hctl hmb)]
  exact runMoves_loop_cons hslot (loopStep_repByte_got rfl rfl)

/-- R285: after the first and the second byte the next is waited for. -/
theorem storeReportByte_next (polled : Bool) (b : Byte) (h : s.repN.val < 2) :
    s.storeReportByte polled b = { s with
      rep := putReportByte s.rep s.repN.val b, repN := s.repN + 1,
      ctl := .op (.mbWait s.par.tRep) :: .k (.repByte polled) :: s.ctl } := if_pos h

/-- R285: the third byte makes the Report whole. -/
theorem storeReportByte_last (polled : Bool) (b : Byte) (h : s.repN = 2) :
    s.storeReportByte polled b = { s with
      rep := { s.rep with b2 := b }, repN := 3, ret := .report (some { s.rep with b2 := b }) } :=
  if_neg (by simp [h])

/-- R76, R285: from the wait for its first byte get_report takes three waiting bytes in arrival order. -/
theorem runMoves_report {t : Nat} {b0 b1 b2 : Byte} (hslot : s.slot = none)
    (hctl : s.ctl = .op (.mbWait t) :: .k (.repByte polled) :: rest) (hmb : s.mb = b0 :: b1 :: b2 :: ms)
    (hn : s.repN = 0) :
    runMoves (List.replicate 9 .loop) s = .next { s with
      mb := ms, rep := ⟨b0, b1, b2⟩, repN := 3, ret := .report (some ⟨b0, b1, b2⟩), ctl := rest } := by
  have hfirst := runMoves_reportByte hslot hctl hmb
  rw [storeReportByte_next _ _ (by simp [hn])] at hfirst
  have hsecond := runMoves_reportByte (s := { s with
    mb := b1 :: b2 :: ms, rep := { s.rep with b0 := b0 }, repN := 1, ret := .byte (some b0),
    ctl := .op (.mbWait s.par.tRep) :: .k (.repByte polled) :: rest }) hslot rfl rfl
  rw [storeReportByte_next _ _ (by simp)] at hsecond
  have hthird := runMoves_reportByte (s := { s with
    mb := b2 :: ms, rep := { s.rep with b0 := b0, b1 := b1 }, repN := 2, ret := .byte (some b1),
    ctl := .op (.mbWait s.par.tRep) :: .k (.repByte polled) :: rest }) hslot rfl rfl
  rw [storeReportByte_last _ _ rfl] at hthird
  simp only [hn] at hfirst
  rw [show List.replicate 9 Move.loop = [.loop, .loop, .loop] ++ ([.loop, .loop, .loop] ++ [.loop, .loop, .loop])
    from rfl, runMoves_append hfirst]
  exact (runMoves_append hsecond).trans hthird

/-- R285: in Streaming mode get_report waits for the first byte at once. -/
theorem loopStep_getReport_stream (hctl : s.ctl = .op .getReport :: rest) (hmode : s.par.mode = .stream) :
    s.loopStep = .next { s with
      repN := 0, ctl := .op (.mbWait s.par.tPoll) :: .k (.repByte false) :: rest } := by
  rw [loopStep_op hctl]
  simp [exec, execGetReport, hmode, State.call]

/-- R285: in Remote-Polling mode it waits for it once its request has its response byte. -/
theorem loopStep_repRequested (hctl : s.ctl = .k .repRequested :: rest) (hok : s.ret.isOk = true) :
    s.loopStep = .next { s with ctl := .op (.mbWait s.par.tRep) :: .k (.repByte true) :: rest } :=
  (loopStep_k hctl).trans (congrArg _ (if_pos hok))

end ReportBytes

/-- Settles O57: one move to the wait for the first byte, whatever the mode, and nine for the three bytes. -/
theorem reportTaken : Obligations.ReportTaken := by
  intro v b0 b1 b2 ms rest s hslot hmb hat
  rw [List.replicate_succ]
  rcases hat with ⟨hctl, hmode⟩ | ⟨hctl, hret, hn⟩
  · rw [runMoves_loop_cons hslot (loopStep_getReport_stream hctl hmode)]
    exact runMoves_report hslot rfl hmb rfl
  · rw [runMoves_loop_cons hslot (loopStep_repRequested hctl (by rw [hret]; rfl))]
    exact runMoves_report hslot rfl hmb hn

end Sys2Proof.Machine

/-! PROOFS. The statements of spec/30_encoding.md: operation words (O1, O2), the frames the device clocks out (O23,
O24, O25), the command and Report rows (O39, O42), and the bytes a bring-up and a heartbeat ask for (O37, O55). -/

namespace Sys2Proof

open Sys2Proof.Machine Sys2Proof.Laws.EncodeShape

/-! ## Operation words -/

/-- Log 6: a word of the formats OP and PROC is decoded by its ordinal and its operand bytes. -/
theorem decode_encode_op {i : Instr} {c o : Nat} (h : encodeWord i = opWord 0 c o) (hc : c < 256) (ho : o < 2 ^ 48) :
    decode (encode i) = decodeOp c o := by
  have hword := (opWord_shape (f := 0) (by decide) hc ho).1
  rw [decode_encode_eq (h ▸ hword), h, decodeWord_op hc ho]

/-- Log 6: a word of another format around a value is decoded by its format. -/
theorem decode_encode_value {i : Instr} {f v : Nat} (h : encodeWord i = v + 2 ^ 56 * f) (hf : f < 7) (hv : v < 2 ^ 56) :
    decode (encode i) = decodeWord (v + 2 ^ 56 * f) := by
  have hword := (value_shape hf hv).1
  rw [decode_encode_eq (h ▸ hword), h]

/-- An operand inside its range is taken. -/
theorem bounded_of_lt {bound o : Nat} (i : Instr) (h : o < bound) : bounded bound o i = .ok i := if_pos h

/-- Log 6: an operation whose one operand is a number in its range. -/
theorem decode_encode_bounded {i : Instr} {c o bound : Nat} (h : encodeWord i = opWord 0 c o) (hc : c < 256)
    (hbound : bound ≤ 2 ^ 48) (hdec : decodeOp c o = bounded bound o i) (ho : o < bound) :
    decode (encode i) = .ok i := by
  rw [decode_encode_op h hc (by omega), hdec, bounded_of_lt i ho]

/-- Log 6: an operation whose one operand is a byte. -/
theorem decode_encode_byte (i : Byte → Instr) (b : Byte) {c : Nat} (h : encodeWord (i b) = opWord 0 c b.toNat)
    (hc : c < 256) (hdec : ∀ o, decodeOp c o = bounded 256 o (i (BitVec.ofNat 8 o))) :
    decode (encode (i b)) = .ok (i b) :=
  decode_encode_bounded h hc (by decide) (by rw [hdec, BitVec.ofNat_toNat, BitVec.setWidth_eq]) b.isLt

/-- R243, log 6: SE_STEP's three operand bytes are read back, its deltas in the ranges of R243. -/
theorem decode_encode_seStep {btn : Buttons} {dx dy : Int} (hx : -128 ≤ dx ∧ dx ≤ 127)
    (hy : -127 ≤ dy ∧ dy ≤ 128) : decode (encode (.seStep btn dx dy)) = .ok (.seStep btn dx dy) := by
  have hbtn := buttonsNat_lt btn
  have hbx := (u8 dx).isLt
  have hby := (u8 (-dy)).isLt
  rw [decode_encode_op rfl (by decide) (by omega)]
  simp only [decodeOp]
  generalize ho : buttonsNat btn + 256 * (u8 dx).toNat + 65536 * (u8 (-dy)).toNat = o
  have hset : o % 256 = buttonsNat btn := by omega
  have hdx : BitVec.ofNat 8 (o / 256) = u8 dx := BitVec.eq_of_toNat_eq (by rw [BitVec.toNat_ofNat]; omega)
  have hdy : BitVec.ofNat 8 (o / 65536) = u8 (-dy) := BitVec.eq_of_toNat_eq (by rw [BitVec.toNat_ofNat]; omega)
  rw [if_pos (by omega), hset, hdx, hdy, natButtons_buttonsNat, sext8_u8 hx.1 hx.2, sext8_u8 (by omega) (by omega),
    neg_neg]

/-- R203, log 6: send_cmd's byte and bound are read back. -/
theorem decode_encode_sendCmd (b : Byte) {t : Nat} (ht : t < 2 ^ 32) :
    decode (encode (.sendCmd b t)) = .ok (.sendCmd b t) := by
  have hb := b.isLt
  have hbyte : BitVec.ofNat 8 (b.toNat + 256 * t) = b := BitVec.eq_of_toNat_eq (by rw [BitVec.toNat_ofNat]; omega)
  rw [decode_encode_op rfl (by decide) (by omega)]
  simp only [decodeOp]
  rw [bounded_of_lt _ (by omega), hbyte, show (b.toNat + 256 * t) / 256 = t by omega]

/-- R101: both parities of a frame are read back. -/
theorem decode_encode_frame (d : Byte) (p : Bool) : decode (encode (.frame d p)) = .ok (.frame d p) := by
  have hv := frameNat_lt d p
  obtain ⟨hdata, hstart, hstop, hparity⟩ := natFrameData_frameNat d p
  rw [decode_encode_value rfl (by decide) (by omega), decodeWord_frame (by omega), decodeFrame,
    if_pos ⟨hv, hstart, hstop⟩, hdata, hparity]

/-- R105: a Report that is no extended packet is read back. -/
theorem decode_encode_report {r : Report} (h : isExt Config.defaults r = false) :
    decode (encode (.report r)) = .ok (.report r) := by
  have hv := reportNat_lt r
  rw [decode_encode_value rfl (by decide) (by omega), decodeWord_report (by omega), decodeReport, natReport_reportNat,
    if_pos ⟨hv, h⟩]

/-- R110, R111: the word of an extended packet is read by its subtype. -/
theorem decode_encode_ext {i : Instr} {r : Report} (hi : encodeWord i = reportNat r + 2 ^ 56 * 3)
    (h : isExt Config.defaults r = true) :
    decode (encode i) = if isAuxbtn Config.defaults r then .ok (.extAuxbtn r) else .ok (.extPacket r) := by
  have hv := reportNat_lt r
  rw [decode_encode_value hi (by decide) (by omega), decodeWord_ext (by omega), decodeExt, natReport_reportNat,
    if_pos ⟨hv, h⟩]

/-- Settles O1: one case for each operation with operands; every other word is closed, and the decoder reads it. -/
theorem decodeEncode : Obligations.DecodeEncode := by
  intro i hwf
  cases i
  case mbPush v => exact decode_encode_byte .mbPush v rfl (by decide) fun _ => rfl
  case txStart b => exact decode_encode_byte .txStart b rfl (by decide) fun _ => rfl
  case txSend b => exact decode_encode_byte .txSend b rfl (by decide) fun _ => rfl
  case rtEdges vis =>
    exact decode_encode_bounded rfl (by decide) (by decide) (by rw [decodeOp, natButtons_buttonsNat])
      (buttonsNat_lt vis)
  case seStep btn dx dy =>
    simp only [Instr.wf, Bool.and_eq_true, decide_eq_true_eq] at hwf
    obtain ⟨⟨⟨hx1, hx2⟩, hy1⟩, hy2⟩ := hwf
    exact decode_encode_seStep ⟨hx1, hx2⟩ ⟨hy1, hy2⟩
  case itRealEvent activity => cases activity <;> rfl
  case mbWait t => exact decode_encode_bounded rfl (by decide) (by decide) rfl (of_decide_eq_true hwf)
  case sendCmd b t => exact decode_encode_sendCmd b (of_decide_eq_true hwf)
  case ssPing k => exact decode_encode_bounded rfl (by decide) (by decide) rfl (of_decide_eq_true hwf)
  case frame data p => exact decode_encode_frame data p
  case report r => exact decode_encode_report (by simpa [Instr.wf] using hwf)
  case extPacket r =>
    obtain ⟨hext, haux⟩ : isExt Config.defaults r = true ∧ isAuxbtn Config.defaults r = false := by
      simpa [Instr.wf] using hwf
    rw [decode_encode_ext rfl hext, haux, if_neg (by decide)]
  case extAuxbtn r =>
    obtain ⟨hext, haux⟩ : isExt Config.defaults r = true ∧ isAuxbtn Config.defaults r = true := by
      simpa [Instr.wf] using hwf
    rw [decode_encode_ext rfl hext, if_pos haux]
  all_goals rfl

/-- Settles O2: each word is evaluated. -/
theorem decodeTableWords : Obligations.DecodeTableWords := by
  unfold Obligations.DecodeTableWords
  decide

end Sys2Proof

namespace Sys2Proof.Machine

open Sys2Proof Sys2Proof.Config

/-! ## A frame of the device -/

section Frames

variable {s : State}

/-- The eight data bits of a byte in the time order of a frame (R101). -/
def dataBits (b : Byte) : List Bool := [0, 1, 2, 3, 4, 5, 6, 7].map (bit b)

theorem frameBits_eq (b : Byte) (p : Bool) : frameBits b p = false :: (dataBits b ++ [p, true]) := rfl

/-- Taking sampled bits one after another (R162 to R165). -/
def State.rxBits (bits : List Bool) (s : State) : State := bits.foldl (fun t d => t.rxBit d) s

@[simp] theorem rxBits_nil (s : State) : s.rxBits [] = s := rfl

@[simp] theorem rxBits_cons (d : Bool) (bits : List Bool) (s : State) :
    s.rxBits (d :: bits) = (s.rxBit d).rxBits bits := rfl

/-- R172: the receiver takes bits: its interrupt is on and the block drives neither line. -/
structure Listening (s : State) : Prop where
  enabled : s.rxIe = true
  clkFree : s.hClk = .rel
  datFree : s.hDat = .rel

/-- The state with the device's drives and the edge detector set, and no edge pending. -/
def State.onLines (c d : Drive) (k : Bool) (s : State) : State :=
  { s with dClk := c, dDat := d, clkPrev := k, rxPending := false }

/-- The four kinds of position of a frame (R26, R161): start, data, parity, stop. -/
theorem rxPos_cases (p : Fin 11) : p = 0 ∨ (p ≠ 0 ∧ p.val ≤ 8) ∨ p = 9 ∨ p = 10 := by omega

/-- R162 to R165: what a bit does does not depend on the device's lines, and it leaves them alone. -/
theorem rxBit_onLines (b : Bool) (c d : Drive) (k : Bool) (s : State) :
    (s.onLines c d k).rxBit b = (s.rxBit b).onLines c d k := by
  rcases rxPos_cases s.rxPos with h | ⟨h0, h8⟩ | h | h
  · rw [rxBit_start b h, rxBit_start b (s := s.onLines c d k) h]
    split <;> rfl
  · rw [rxBit_data b h0 h8, rxBit_data b (s := s.onLines c d k) h0 h8]
    rfl
  · have hpar : (s.onLines c d k).rxPar = s.rxPar := rfl
    rw [rxBit_parity b h, rxBit_parity b (s := s.onLines c d k) h, hpar]
    split <;> rfl
  · rw [rxBit_stop b h, rxBit_stop b (s := s.onLines c d k) h]
    split <;> rfl

theorem rxBits_onLines (bits : List Bool) (c d : Drive) (k : Bool) (s : State) :
    (s.onLines c d k).rxBits bits = (s.rxBits bits).onLines c d k := by
  induction bits generalizing s with
  | nil => rfl
  | cons b bits ih => rw [rxBits_cons, rxBit_onLines, ih, rxBits_cons]

theorem Listening.onLines (h : Listening s) (c d : Drive) (k : Bool) : Listening (s.onLines c d k) :=
  ⟨h.enabled, h.clkFree, h.datFree⟩

theorem Listening.rxBit (h : Listening s) (d : Bool) : Listening (s.rxBit d) := by
  obtain ⟨p, a, r, m, e, heq, -, -⟩ := rxBit_eq d s
  rw [heq]
  exact ⟨h.enabled, h.clkFree, h.datFree⟩

theorem Listening.rxBits (h : Listening s) (bits : List Bool) : Listening (s.rxBits bits) := by
  induction bits generalizing s with
  | nil => exact h
  | cons d bits ih => exact ih (h.rxBit d)

/-- R55, R101, R136: while the receiver listens, a bit of the device is the bit the receiver takes. -/
theorem Listening.devBit (h : Listening s) (d : Bool) :
    s.devBit d = (s.rxBit d).onLines .low (driveOf d) false := by
  have hpend : (((s.devClk .rel).devDat (driveOf d)).devClk .low).rxEnabled = true := by
    simp [State.rxEnabled, h.enabled, h.clkFree, wiredAnd]
  have hclk : (((s.devClk .rel).devDat (driveOf d)).devClk .low).clk = false := by simp
  have hdat : (((s.devClk .rel).devDat (driveOf d)).devClk .low).dat = d := by simp [h.datFree]
  have hclocked : { ((s.devClk .rel).devDat (driveOf d)).devClk .low with rxPending := false } =
      s.onLines .low (driveOf d) false := by
    simp [State.devClk, State.devDat, State.edgeDetect, State.onLines, State.clk]
  rw [State.devBit, State.serveEdge, if_pos hpend, rxEdge_low hclk, hdat, hclocked, rxBit_onLines]

theorem Listening.foldl_devBit (h : Listening s) (bits : List Bool) (hne : bits ≠ []) :
    ∃ d, bits.foldl State.devBit s = (s.rxBits bits).onLines .low d false := by
  induction bits generalizing s with
  | nil => exact absurd rfl hne
  | cons b bits ih =>
    rw [List.foldl_cons, h.devBit, rxBits_cons]
    rcases eq_or_ne bits [] with rfl | hne'
    · exact ⟨_, rfl⟩
    · obtain ⟨d, hd⟩ := ih ((h.rxBit b).onLines _ _ _) hne'
      exact ⟨d, by rw [hd, rxBits_onLines]; rfl⟩

/-- R55, R101: bits clocked out to a listening receiver are taken, and both lines end released. -/
theorem Listening.devBits (h : Listening s) {bits : List Bool} (hne : bits ≠ []) :
    s.devBits bits = (s.rxBits bits).onLines .rel .rel true := by
  obtain ⟨d, hd⟩ := h.foldl_devBit bits hne
  rw [State.devBits, hd]
  simp [State.devClk, State.devDat, State.edgeDetect, State.onLines, State.clk, (h.rxBits bits).clkFree, wiredAnd]

/-! ### What the receiver makes of a frame -/

/-- R104: bits shifted into an accumulator push its old ones out. -/
theorem foldl_accNext (ds : List Bool) (a : Byte) :
    ds.foldl accNext a = (a >>> ds.length) ||| ds.foldl accNext 0x00 := by
  induction ds generalizing a with
  | nil => simp
  | cons d ds ih =>
    rw [List.foldl_cons, List.foldl_cons, ih, ih (accNext 0x00 d), List.length_cons, Nat.add_comm,
      BitVec.shiftRight_add]
    simp [accNext, BitVec.ushiftRight_or_distrib, BitVec.or_assoc]

/-- R104: the eight bits of a byte give the byte, whatever the accumulator held. -/
theorem accNext_dataBits (a b : Byte) : (dataBits b).foldl accNext a = b := by
  have hout : a >>> (dataBits b).length = 0#8 := BitVec.ushiftRight_eq_zero (Nat.le_refl 8)
  rw [foldl_accNext, hout, BitVec.zero_or]
  exact accNext_bits b

/-- R163: data bits up to the eighth. -/
theorem rxBits_data (ds : List Bool) (hpos : 1 ≤ s.rxPos.val) (hlen : s.rxPos.val + ds.length = 9) :
    s.rxBits ds = { s with
      rxAcc := ds.foldl accNext s.rxAcc, rxPar := ds.foldl parityNext s.rxPar, rxPos := 9 } := by
  induction ds generalizing s with
  | nil =>
    have hnine : s.rxPos = 9 := Fin.ext hlen
    rw [rxBits_nil, List.foldl_nil, List.foldl_nil, ← hnine]
  | cons d ds ih =>
    rw [List.length_cons] at hlen
    have hnext : (s.rxPos + 1).val = s.rxPos.val + 1 :=
      Fin.val_add_one_of_lt (show s.rxPos.val < 10 by omega)
    have hstart : s.rxPos ≠ 0 := fun h => by rw [h] at hpos; exact absurd hpos (by decide)
    rw [rxBits_cons, rxBit_data d hstart (by omega), ih (by simp only [hnext]; omega) (by simp only [hnext]; omega)]
    rfl

/-- R162 to R164: from rest, a start bit and the bits of a byte leave it in the accumulator with its parity. -/
theorem rxBits_start_data (b : Byte) (tail : List Bool) (hpos : s.rxPos = 0) (hpar : s.rxPar = true) :
    s.rxBits (false :: (dataBits b ++ tail)) =
      State.rxBits tail { s with rxPos := 9, rxAcc := b, rxPar := oddpar b } := by
  have hstart : s.rxBit false = { s with rxPos := 1 } := rxBit_start false hpos
  have hdata := rxBits_data (s := { s with rxPos := 1 }) (dataBits b) (Nat.le_refl 1) rfl
  have hparity : (dataBits b).foldl parityNext s.rxPar = oddpar b := hpar ▸ parityNext_bits b
  rw [accNext_dataBits, hparity] at hdata
  rw [rxBits_cons, hstart, State.rxBits, List.foldl_append]
  exact congrArg (State.rxBits tail) hdata

/-- R164, R165: correct parity and stop push the byte. -/
theorem rxBits_frame (b : Byte) (hpos : s.rxPos = 0) (hpar : s.rxPar = true) :
    s.rxBits (frameBits b (oddpar b)) = (s.mbPush b).rxIdle := by
  rw [frameBits_eq, rxBits_start_data b _ hpos hpar, rxBits_cons, rxBit_parity _ rfl, if_pos rfl, rxBits_cons,
    rxBit_stop _ rfl]
  rfl

/-- R165: with only the stop bit wrong, E_STOP. -/
theorem rxBits_wrongStop (b : Byte) (hpos : s.rxPos = 0) (hpar : s.rxPar = true) :
    s.rxBits (false :: (dataBits b ++ [oddpar b, false])) = s.rxFail .stop := by
  rw [rxBits_start_data b _ hpos hpar, rxBits_cons, rxBit_parity _ rfl, if_pos rfl, rxBits_cons, rxBit_stop _ rfl]
  rfl

/-- R164: with the wrong parity, E_PARITY, and the stop bit is taken at rest. -/
theorem rxBits_wrongParity (b : Byte) {p : Bool} (stop : Bool) (hp : p ≠ oddpar b) (hpos : s.rxPos = 0)
    (hpar : s.rxPar = true) :
    s.rxBits (false :: (dataBits b ++ [p, stop])) = (s.rxFail .parity).rxBit stop := by
  rw [rxBits_start_data b _ hpos hpar, rxBits_cons, rxBit_parity _ rfl, if_neg hp]
  rfl

end Frames

/-- Settles O23: the response rows are the frames of their bytes. -/
theorem frameReceived : Obligations.FrameReceived := by
  intro b s hie hclk hdat hpos hpar received
  have hframe (v : Byte) : s.devBits (frameOf v) = received v := by
    rw [Listening.devBits ⟨hie, hclk, hdat⟩ (by simp [frameOf, frameBits]), frameOf, rxBits_frame v hpos hpar]
    rfl
  exact ⟨congrArg _ (hframe b), congrArg _ (hframe 0xFA), congrArg _ (hframe 0xAA), congrArg _ (hframe 0x00)⟩

/-- Settles O24: E_PARITY, then E_START for the stop bit. -/
theorem frameWrongParity : Obligations.FrameWrongParity := by
  intro b s hie hclk hdat hpos hpar
  have hstop : (s.rxFail .parity).rxBit true = s.rxFail .start := rxBit_start true rfl
  have hbits : s.devBits (frameBits b (!oddpar b)) = (s.rxFail .start).onLines .rel .rel true := by
    rw [Listening.devBits ⟨hie, hclk, hdat⟩ (by simp [frameBits]), frameBits_eq,
      rxBits_wrongParity b true (by simp) hpos hpar, hstop]
  exact congrArg Host.Outcome.next hbits

/-! ### Eleven bits that are no frame -/

section NoFrame

variable {s : State}

/-- R102: any eleven bits are a start bit, the data bits of a byte, a parity bit and a stop bit. -/
theorem eleven_bits {bits : List Bool} (h : bits.length = 11) :
    ∃ start b parity stop, bits = start :: (dataBits b ++ [parity, stop]) := by
  have hbyte : ∀ d0 d1 d2 d3 d4 d5 d6 d7 : Bool,
      dataBits ([d0, d1, d2, d3, d4, d5, d6, d7].foldl accNext 0x00) = [d0, d1, d2, d3, d4, d5, d6, d7] := by decide
  match bits, h with
  | [start, d0, d1, d2, d3, d4, d5, d6, d7, parity, stop], _ =>
    exact ⟨start, [d0, d1, d2, d3, d4, d5, d6, d7].foldl accNext 0x00, parity, stop, by rw [hbyte]; rfl⟩

/-- R301: no bit clears an error. -/
theorem rxBits_err_ne_zero (bits : List Bool) (h : s.err ≠ 0) : (s.rxBits bits).err ≠ 0 := by
  induction bits generalizing s with
  | nil => exact h
  | cons d bits ih =>
    obtain ⟨p, a, r, m, e, heq, -, herr⟩ := rxBit_eq d s
    have hbit : (s.rxBit d).err = e := congrArg State.err heq
    rw [rxBits_cons]
    rcases herr with rfl | ⟨c, rfl⟩
    · exact ih (hbit ▸ h)
    · exact ih (hbit ▸ code_ne c)

/-- R165: only the stop bit pushes, and a bit moves the position on by at most one. -/
theorem rxBit_before_stop (d : Bool) (h : s.rxPos.val ≤ 9) :
    (s.rxBit d).mb = s.mb ∧ (s.rxBit d).rxPos.val ≤ s.rxPos.val + 1 := by
  rcases rxPos_cases s.rxPos with hp | ⟨h0, h8⟩ | hp | hp
  · rw [rxBit_start d hp]
    split <;> exact ⟨rfl, by simp [State.rxFail, State.rxIdle]⟩
  · rw [rxBit_data d h0 h8]
    exact ⟨rfl, by rw [Fin.val_add]; exact Nat.mod_le _ _⟩
  · rw [rxBit_parity d hp]
    split <;> exact ⟨rfl, by simp [State.rxFail, State.rxIdle, hp]⟩
  · rw [hp] at h
    exact absurd h (by decide)

/-- R165: fewer bits than reach the stop bit push nothing. -/
theorem rxBits_mb (bits : List Bool) (h : s.rxPos.val + bits.length ≤ 10) : (s.rxBits bits).mb = s.mb := by
  induction bits generalizing s with
  | nil => rfl
  | cons d bits ih =>
    rw [List.length_cons] at h
    obtain ⟨hmb, hpos⟩ := rxBit_before_stop d (s := s) (by omega)
    rw [rxBits_cons, ih (by omega), hmb]

/-- R102, R162 to R167: of eleven bits that are no frame the start, the parity or the stop bit is wrong; each raises
an error, and too few bits are left for a byte. -/
theorem rxBits_noFrame {bits : List Bool} (hlen : bits.length = 11) (hno : ∀ b, bits ≠ frameOf b)
    (hpos : s.rxPos = 0) (hpar : s.rxPar = true) : (s.rxBits bits).mb = s.mb ∧ (s.rxBits bits).err ≠ 0 := by
  obtain ⟨start, b, parity, stop, rfl⟩ := eleven_bits hlen
  have hafter (e : LinkError) (rest : List Bool) (h : rest.length ≤ 10) :
      ((s.rxFail e).rxBits rest).mb = s.mb ∧ ((s.rxFail e).rxBits rest).err ≠ 0 :=
    ⟨rxBits_mb rest (s := s.rxFail e) (by simpa [State.rxFail, State.rxIdle] using h),
      rxBits_err_ne_zero rest (code_ne e)⟩
  cases start with
  | true =>
    rw [rxBits_cons, rxBit_start true hpos, if_pos rfl]
    exact hafter .start _ (by simp [dataBits])
  | false =>
    rcases ne_or_eq parity (oddpar b) with hparity | rfl
    · rw [rxBits_wrongParity b stop hparity hpos hpar]
      exact hafter .parity [stop] (by simp)
    · cases stop with
      | true => exact absurd rfl (hno b)
      | false =>
        rw [rxBits_wrongStop b hpos hpar]
        exact hafter .stop [] (by decide)

end NoFrame

/-- Settles O25. -/
theorem invalidFramePushesNothing : Obligations.InvalidFramePushesNothing := by
  intro bits s hlen hno hie hclk hdat hpos hpar
  have hne : bits ≠ [] := fun h => by rw [h] at hlen; exact absurd hlen (by decide)
  obtain ⟨hmb, herr⟩ := rxBits_noFrame hlen hno hpos hpar
  rw [Listening.devBits ⟨hie, hclk, hdat⟩ hne]
  refine ⟨hmb, herr, fun b hbits => ?_⟩
  have hstop : s.rxBits bits = s.rxFail .stop := hbits ▸ rxBits_wrongStop b hpos hpar
  rw [hstop]
  exact ⟨rfl, rfl⟩

/-! ## The command and Report rows -/

/-- Settles O39: each row is the call of its procedure. -/
theorem commandRows : Obligations.CommandRows := by
  intro s
  have hrate : exec .cmdSetRate s = execCmdSetRate s := rfl
  exact ⟨rfl, rfl, rfl, fun hnone => by rw [hrate, execCmdSetRate, hnone]; rfl,
    fun r hsome => by rw [hrate, execCmdSetRate, hsome]; rfl, rfl, rfl, rfl, rfl⟩

/-- Settles O42: by what each row does. -/
theorem reportRows : Obligations.ReportRows := fun _ _ => ⟨rfl, rfl, rfl, ⟨_, rfl⟩, ⟨_, rfl⟩⟩

/-! ## What a procedure asks of the device -/

section Asks

variable {v : Byte} {s t u : State} {cs ds : List LinkCall} {k j n : Nat} {rest : List Task}

/-- The loop context is at the end of its run, or about to ask something of the device. -/
def State.restsOrAsks (s : State) : Bool :=
  match s.ctl with
  | [] => true
  | .op (.sendCmd _ _) :: _ => true
  | .op (.mbWait _) :: _ => true
  | _ => false

/-- In `k` steps of the loop context, against a device that answers with `v`, the run from a state asks a list of
things and stands at another state: a part of a run of `linkCalls`, by `Asks.linkCalls_add`. -/
inductive Asks (v : Byte) : Nat → State → List LinkCall → State → Prop where
  | refl {s : State} : Asks v 0 s [] s
  /-- R203: a byte sent, its response byte taken. -/
  | send {k : Nat} {s t : State} {cs : List LinkCall} {b : Byte} {w : Nat} {rest : List Task}
      (h : s.ctl = .op (.sendCmd b w) :: rest) (hrun : Asks v k { s with ctl := rest, ret := .reply (some v) } cs t) :
      Asks v (k + 1) s (.send b w :: cs) t
  /-- R146: one more byte taken. -/
  | take {k : Nat} {s t : State} {cs : List LinkCall} {w : Nat} {rest : List Task}
      (h : s.ctl = .op (.mbWait w) :: rest) (hrun : Asks v k { s with ctl := rest, ret := .byte (some v) } cs t) :
      Asks v (k + 1) s (.take w :: cs) t
  /-- Log 7: an entry of a procedure or a return point. -/
  | step {k : Nat} {s t u : State} {cs : List LinkCall} (hquiet : s.restsOrAsks = false)
      (hstep : s.loopStep = .next t) (hrun : Asks v k t cs u) : Asks v (k + 1) s cs u

theorem linkCalls_nil (v : Byte) (n : Nat) (h : s.ctl = []) : linkCalls v n s = ([], s) := by
  cases n with
  | zero => rfl
  | succ n => rw [linkCalls, h]

theorem linkCalls_step (v : Byte) (n : Nat) (hquiet : s.restsOrAsks = false) (hstep : s.loopStep = .next t) :
    linkCalls v (n + 1) s = linkCalls v n t := by
  rw [linkCalls]
  split
  next hctl => rw [State.restsOrAsks, hctl] at hquiet; cases hquiet
  next hctl => rw [State.restsOrAsks, hctl] at hquiet; cases hquiet
  next hctl => rw [State.restsOrAsks, hctl] at hquiet; cases hquiet
  next => rw [hstep]

/-- A run asks what its first part asks, then what is asked from where that part stands. -/
theorem Asks.linkCalls_add (h : Asks v k s cs t) (n : Nat) :
    linkCalls v (k + n) s = (cs ++ (linkCalls v n t).1, (linkCalls v n t).2) := by
  induction h with
  | refl => rw [Nat.zero_add]; rfl
  | send hctl _ ih => rw [Nat.succ_add, linkCalls, hctl]; simp only [ih]; rfl
  | take hctl _ ih => rw [Nat.succ_add, linkCalls, hctl]; simp only [ih]; rfl
  | step hquiet hstep _ ih => rw [Nat.succ_add, linkCalls_step v _ hquiet hstep, ih]

/-- A run that ends with the control stack empty has asked just that. -/
theorem Asks.linkCalls_eq (h : Asks v k s cs t) (hend : t.ctl = []) (hn : k ≤ n) : linkCalls v n s = (cs, t) := by
  obtain ⟨m, rfl⟩ := Nat.exists_eq_add_of_le hn
  rw [h.linkCalls_add, linkCalls_nil v m hend, List.append_nil]

/-- One part of a run after another. -/
theorem Asks.trans (h : Asks v k s cs t) (h' : Asks v j t ds u) : Asks v (k + j) s (cs ++ ds) u := by
  induction h with
  | refl => rwa [Nat.zero_add]
  | send hctl _ ih => rw [Nat.succ_add]; exact .send hctl (ih h')
  | take hctl _ ih => rw [Nat.succ_add]; exact .take hctl (ih h')
  | step hquiet hstep _ ih => rw [Nat.succ_add]; exact .step hquiet hstep (ih h')

/-- Log 7: a return point is one step. -/
theorem Asks.resume {c : Cont} (h : s.ctl = .k c :: rest)
    (hrun : Asks v k (State.resume c { s with ctl := rest }) cs t) : Asks v (k + 1) s cs t :=
  .step (by rw [State.restsOrAsks, h]) (loopStep_k h) hrun

/-- R204: expect's byte, taken. -/
theorem asks_expect {w : Nat} (h : s.ctl = .op (.mbWait w) :: .k .hsReply :: rest) :
    Asks v 2 s [.take w] { s with ctl := rest, ret := .reply (some v) } :=
  .take h <| .resume rfl .refl

end Asks

/-! ### The bring-up -/

section BringUp

variable {v : Byte} {s : State} {rest : List Task}

/-- The bring-up about to run the step `p` names, with nothing below it (R210). -/
def State.atStep (p : SsStep) (i : Instr) (s : State) : State := { s with ssStep := p, ctl := [.op i, .k .bringUpNext] }

/-- R211: SS_RESET's self-test byte. -/
theorem asks_resetBat (h : s.ctl = .k .resetBat :: rest) (hok : s.ret.isOk = true) :
    Asks v 3 s [.take s.par.tBat] { s with ctl := .k .resetId :: rest, ret := .reply (some v) } := by
  have hcall : State.resume .resetBat { s with ctl := rest } =
      { s with ctl := .op (.mbWait s.par.tBat) :: .k .hsReply :: .k .resetId :: rest } := if_pos hok
  exact .resume h (hcall ▸ asks_expect rfl)

/-- R211: SS_RESET's ID byte. -/
theorem asks_resetId (h : s.ctl = .k .resetId :: rest) (hok : s.ret.isOk = true) :
    Asks v 3 s [.take s.par.tId] { s with ctl := rest, ret := .reply (some v) } := by
  have hcall : State.resume .resetId { s with ctl := rest } =
      { s with ctl := .op (.mbWait s.par.tId) :: .k .hsReply :: rest } := if_pos hok
  exact .resume h (hcall ▸ asks_expect rfl)

/-- R211: SS_RESET, then the rate. -/
theorem asks_ssReset : Asks v 9 (s.atStep .reset .ssReset)
    [.send s.par.cmdReset s.par.tAck, .take s.par.tBat, .take s.par.tId]
    (State.atStep .rate .ssRate { s with sess := .negotiating, ret := .reply (some v) }) :=
  .step rfl rfl <| .send rfl <|
    (asks_resetBat (s := { s with
      ssStep := .reset, ctl := [.k .resetBat, .k .bringUpNext], ret := .reply (some v) }) rfl rfl).trans <|
    (asks_resetId rfl rfl).trans <|
    .resume rfl .refl

/-- What SS_RATE asks (R212). -/
def rateCalls (p : Params) : List LinkCall :=
  match p.sampleRate with
  | none => []
  | some r => [.send p.cmdSetRate p.tAck, .send r p.tAck]

/-- R212: SS_RATE, in both cases of the configured rate, then the mode. -/
theorem asks_ssRate (v : Byte) (s : State) : ∃ k ≤ 5, ∃ r, Asks v k (s.atStep .rate .ssRate)
    (rateCalls s.par) (State.atStep .mode .ssMode { s with ret := r }) := by
  cases hrate : s.par.sampleRate with
  | none =>
    have hcalls : rateCalls s.par = [] := by rw [rateCalls, hrate]
    have hrun : (s.atStep .rate .ssRate).loopStep =
        .next { s with ssStep := .rate, ctl := [.k .bringUpNext], ret := .status true } := by
      simp [State.loopStep, State.atStep, exec, execSsRate, hrate, State.returning]
    rw [hcalls]
    exact ⟨2, by decide, _, .step rfl hrun <| .step rfl rfl .refl⟩
  | some r =>
    have hcalls : rateCalls s.par = [.send s.par.cmdSetRate s.par.tAck, .send r s.par.tAck] := by rw [rateCalls, hrate]
    have hrun : (s.atStep .rate .ssRate).loopStep = .next { s with
        ssStep := .rate, ctl := [.op (.sendCmd s.par.cmdSetRate s.par.tAck), .k (.rateArg r), .k .bringUpNext] } := by
      simp [State.loopStep, State.atStep, exec, execSsRate, hrate, State.call]
    rw [hcalls]
    exact ⟨5, by decide, _, .step rfl hrun <| .send rfl <| .step rfl rfl <| .send rfl <| .step rfl rfl .refl⟩

/-- The byte of SS_MODE (R213). -/
def modeByte (p : Params) : Byte :=
  match p.mode with
  | .remote => p.cmdSetRemote
  | .stream => p.cmdSetStream

/-- R213: SS_MODE, then the first ping byte. -/
theorem asks_ssMode : Asks v 3 (s.atStep .mode .ssMode) [.send (modeByte s.par) s.par.tAck]
    (State.atStep (.ping 0) (.ssPing 0) { s with ret := .reply (some v) }) :=
  .step rfl rfl <| .send rfl <| .step rfl rfl .refl

/-- R214: one ping byte. -/
theorem asks_ssPing {i : Fin 17} {b : Byte} (hb : s.par.ping[i.val]? = some b) :
    Asks v 3 (s.atStep (.ping i) (.ssPing i)) [.send b s.par.tAck]
      (State.bringUpAdvance { s with ssStep := .ping i, ctl := [], ret := .reply (some v) }) :=
  .step rfl (sendPing_eq (s := { s with ssStep := .ping i, ctl := [.k .bringUpNext] })
      ((pingRead_eq_getElem? s.par i.isLt).trans hb)) <|
  .send rfl <| .step rfl rfl .refl

/-- R214: after a ping byte, the next index or the enable. -/
theorem bringUpAdvance_ping {i : Fin 17} (hstep : s.ssStep = .ping i) (hctl : s.ctl = []) :
    s.bringUpAdvance =
      if i = 16 then s.atStep .enable .ssEnable else s.atStep (.ping (i + 1)) (.ssPing (i.val + 1)) := by
  simp [State.bringUpAdvance, hstep, hctl, State.call, State.atStep]

/-- R214: the ping bytes from an index on, in index order. -/
theorem asks_pings (hlen : s.par.ping.length = 17) (n : Nat) (i : Fin 17) (hn : i.val + n = 16) :
    Asks v (3 * (n + 1)) (s.atStep (.ping i) (.ssPing i)) ((s.par.ping.drop i).map fun b => .send b s.par.tAck)
      (State.atStep .enable .ssEnable { s with ret := .reply (some v) }) := by
  induction n generalizing i s with
  | zero =>
    have hi : i.val < s.par.ping.length := by rw [hlen]; exact i.isLt
    have hping := asks_ssPing (v := v) (List.getElem?_eq_getElem hi)
    rw [bringUpAdvance_ping rfl rfl, if_pos (Fin.ext hn)] at hping
    rw [List.drop_eq_getElem_cons hi, List.map_cons, List.drop_of_length_le (by omega)]
    exact hping
  | succ n ih =>
    have hi : i.val < s.par.ping.length := by rw [hlen]; exact i.isLt
    have hnext : (i + 1).val = i.val + 1 := Fin.val_add_one_of_lt (show i.val < 16 by omega)
    have hnot : i ≠ 16 := fun h => by rw [h] at hn; simp at hn
    have hping := asks_ssPing (v := v) (List.getElem?_eq_getElem hi)
    have hrest := ih (s := { s with ret := .reply (some v) }) hlen (i + 1) (by omega)
    rw [bringUpAdvance_ping rfl rfl, if_neg hnot, ← hnext] at hping
    rw [List.drop_eq_getElem_cons hi, List.map_cons, ← hnext, Nat.mul_succ, Nat.add_comm]
    exact hping.trans hrest

/-- What SS_ENABLE asks (R215). -/
def enableCalls (p : Params) : List LinkCall :=
  match p.mode with
  | .stream => [.send p.cmdEnable p.tAck]
  | .remote => []

/-- R215, R221: SS_ENABLE in both modes, then the session the bring-up leaves. -/
theorem asks_ssEnable (v : Byte) (s : State) : ∃ k ≤ 3, Asks v k (s.atStep .enable .ssEnable) (enableCalls s.par)
    { s with ctl := [], ret := .status true, ssStep := .done, tHb := s.now, sess := sessionOfMode s.par.mode } := by
  cases hmode : s.par.mode with
  | stream =>
    have hcalls : enableCalls s.par = [.send s.par.cmdEnable s.par.tAck] := by rw [enableCalls, hmode]
    have hrun : (s.atStep .enable .ssEnable).loopStep = .next { s with
        ssStep := .enable, ctl := [.op (.sendCmd s.par.cmdEnable s.par.tAck), .k .bringUpNext] } := by
      simp [State.loopStep, State.atStep, exec, execSsEnable, hmode, State.callSendCmd, State.call]
    rw [hcalls, ← hmode]
    exact ⟨3, by decide, .step rfl hrun <| .send rfl <| .step rfl rfl .refl⟩
  | remote =>
    have hcalls : enableCalls s.par = [] := by rw [enableCalls, hmode]
    have hrun : (s.atStep .enable .ssEnable).loopStep =
        .next { s with ssStep := .enable, ctl := [.k .bringUpNext], ret := .status true } := by
      simp [State.loopStep, State.atStep, exec, execSsEnable, hmode, State.returning]
    rw [hcalls, ← hmode]
    exact ⟨2, by decide, .step rfl hrun <| .step rfl rfl .refl⟩

end BringUp

/-- Settles O37: the steps of the bring-up, one after another. -/
theorem bringUpBytes : Obligations.BringUpBytes := by
  intro v s hlen sent
  have hentry : Asks v 1 { s with ctl := [.op .bringUp] } []
      (State.atStep .reset .ssReset { s with sess := .resetting }) := .step rfl rfl .refl
  obtain ⟨k, hk, r, hrate⟩ := asks_ssRate v { s with sess := .negotiating, ret := .reply (some v) }
  have hpings := asks_pings (v := v) (s := { s with sess := .negotiating, ret := .reply (some v) }) hlen 16 0 rfl
  obtain ⟨j, hj, henable⟩ := asks_ssEnable v { s with sess := .negotiating, ret := .reply (some v) }
  exact (((((hentry.trans asks_ssReset).trans hrate).trans asks_ssMode).trans hpings).trans henable).linkCalls_eq rfl
    (by omega)

/-! ### The heartbeat -/

section Heartbeat

variable {v : Byte} {s : State} {rest : List Task}

/-- R284: the status bytes, each discarded. -/
theorem asks_callStatusBytes (n : Nat) (hctl : s.ctl = []) : Asks v (2 * n) (s.callStatusBytes n)
    (List.replicate n (.take s.par.tStat)) { s with ret := .status true } := by
  induction n generalizing s with
  | zero => exact .refl
  | succ n ih =>
    have hrest := ih (s := { s with ret := .byte (some v) }) hctl
    exact .take rfl <| .resume rfl hrest

/-- R284: a due heartbeat sends the request, then takes the status bytes. -/
theorem asks_mlHeartbeat (hctl : s.ctl = [.op .mlHeartbeat]) (hdue : s.heartbeatDue = true) :
    Asks v (2 * s.par.nStat + 3) s (.send s.par.cmdStatus s.par.tAck :: List.replicate s.par.nStat (.take s.par.tStat))
      { s with hbN := s.hbN + 1, tHb := s.now, ctl := [], ret := .status true } := by
  have hbegin : s.loopStep = .next { s with
      hbN := s.hbN + 1, tHb := s.now, ctl := [.op (.sendCmd s.par.cmdStatus s.par.tAck), .k .hbRequested] } :=
    (loopStep_op hctl).trans (congrArg _ (if_pos hdue))
  have hbytes := asks_callStatusBytes (v := v)
    (s := { s with hbN := s.hbN + 1, tHb := s.now, ctl := [], ret := .reply (some v) }) s.par.nStat rfl
  exact .step (by rw [State.restsOrAsks, hctl]) hbegin <| .send rfl <| .step rfl rfl hbytes

/-- R284: after its request the heartbeat takes the status bytes, or fails with its send. -/
theorem loopStep_hbRequested (hctl : s.ctl = .k .hbRequested :: rest) :
    s.loopStep = .next (if s.ret.isOk then State.callStatusBytes s.par.nStat { s with ctl := rest }
      else { s with sess := .desync, ret := .status false, ctl := rest }) :=
  loopStep_k hctl

/-- R284: after a status byte the heartbeat takes those left. -/
theorem loopStep_hbByte_got {left : Nat} {b : Byte} (hctl : s.ctl = .k (.hbByte left) :: rest)
    (hret : s.ret = .byte (some b)) : s.loopStep = .next (State.callStatusBytes left { s with ctl := rest }) := by
  rw [loopStep_k hctl]
  simp [State.resume, resumeHbByte, Ret.byteGot, hret]

/-- R284: a status byte that does not come. -/
theorem loopStep_hbByte_late {left : Nat} (hctl : s.ctl = .k (.hbByte left) :: rest) (hret : s.ret = .byte none) :
    s.loopStep = .next { s with err := 0x06, sess := .desync, ret := .status false, ctl := rest } := by
  rw [loopStep_k hctl]
  simp [State.resume, resumeHbByte, Ret.byteGot, hret, State.raiseDesync, State.raise, State.returning, LinkError.code]

end Heartbeat

/-- Settles O55. -/
theorem heartbeatWhole : Obligations.HeartbeatWhole := by
  refine ⟨?_, ?_, ?_⟩
  · intro v n s hctl hn henable hmode hcount htime
    exact (asks_mlHeartbeat hctl (by simp [State.heartbeatDue, henable, hmode, hcount, htime])).linkCalls_eq rfl hn
  · intro v rest s hctl
    refine ⟨fun hret => ?_, fun hret hzero => ?_, fun k hret hsucc => ?_⟩ <;> rw [loopStep_hbRequested hctl, hret]
    · rfl
    · rw [hzero]; rfl
    · rw [hsucc]; rfl
  · intro v left rest s hctl
    refine ⟨loopStep_hbByte_late hctl, fun hret hzero => ?_, fun k hret hsucc => ?_⟩ <;>
      rw [loopStep_hbByte_got hctl hret]
    · rw [hzero]; rfl
    · rw [hsucc]; rfl

end Sys2Proof.Machine

/-! PROOFS. The statements of spec/40_link_mailbox.md: the four operations (O17), the order and the capacity of the
mailbox (O18), and a pass of mb_wait (O20). -/

namespace Sys2Proof.Machine

open Sys2Proof Sys2Proof.Config

/-! ## The operations of the mailbox -/

section MailboxOperations

variable {s : State}

/-- R142: there is nothing to remove, and `none` is returned. -/
theorem mbPull_of_empty (hmb : s.mb = []) : s.mbPull = { s with ret := .byte none } := by
  rw [State.mbPull, hmb, List.tail_nil, ← hmb, List.head?_eq_none_iff.mpr hmb]

/-- R142: the oldest byte is removed and returned. -/
theorem mbPull_of_cons {w : Byte} {ms : List Byte} (hmb : s.mb = w :: ms) :
    s.mbPull = { s with mb := ms, ret := .byte (some w) } := by
  rw [State.mbPull, hmb, List.tail_cons, List.head?_cons]

/-- R143. -/
theorem mbEmpty_eq_decide (s : State) : s.mbEmpty = decide (s.mb.length = 0) :=
  Bool.eq_iff_iff.mpr (List.isEmpty_iff_length_eq_zero.trans decide_eq_true_iff.symm)

end MailboxOperations

/-- Settles O17. -/
theorem mailboxOperations : Obligations.MailboxOperations := fun _ s =>
  ⟨rfl, fun hmb => congrArg _ (mbPull_of_empty hmb), fun _ _ hmb => congrArg _ (mbPull_of_cons hmb),
    congrArg (fun e => (.next (s.returning (.flag e)) : Out)) (mbEmpty_eq_decide s), rfl⟩

/-! ## Runs of pushes and of pulls -/

section MailboxRuns

theorem execAll_cons {s t : State} {i : Instr} (is : List Instr) (h : exec i s = .next t) :
    execAll (i :: is) s = execAll is t := by
  rw [execAll, h]

/-- R141, R145: of the bytes pushed one after another, those that find a free slot are kept, in order. -/
theorem foldl_mailboxPush (bs mb : List Byte) :
    bs.foldl mailboxPush mb = mb ++ bs.take (mbCap - mb.length) := by
  induction bs generalizing mb with
  | nil => simp
  | cons b bs ih =>
    rw [List.foldl_cons, ih]
    by_cases hroom : mb.length < mbCap
    · have hfree : mbCap - mb.length = mbCap - (mb ++ [b]).length + 1 := by
        rw [List.length_append, List.length_singleton]; omega
      rw [mailboxPush_room b hroom, hfree, List.take_succ_cons, List.append_assoc, List.singleton_append]
    · have hfull : mbCap ≤ mb.length := Nat.le_of_not_lt hroom
      rw [mailboxPush_full b hfull, Nat.sub_eq_zero_of_le hfull, List.take_zero, List.take_zero]

/-- Consecutive pushes change only the mailbox. -/
theorem execAll_mbPush (bs : List Byte) (s : State) :
    execAll (bs.map .mbPush) s = .next { s with mb := bs.foldl mailboxPush s.mb } := by
  induction bs generalizing s with
  | nil => rfl
  | cons b bs ih => exact (execAll_cons _ rfl).trans (ih (s.mbPush b))

/-- R142: the last of `n + 1` consecutive pulls returns what stood `n` places behind the oldest. -/
theorem execAll_mbPull (n : Nat) (s : State) :
    execAll (List.replicate (n + 1) .mbPull) s =
      .next { s with mb := s.mb.drop (n + 1), ret := .byte s.mb[n]? } := by
  induction n generalizing s with
  | zero => rw [List.drop_one, ← List.head?_eq_getElem?]; rfl
  | succ n ih =>
    rw [List.replicate_succ, execAll_cons (t := s.mbPull) _ rfl, ih, mbPull_mb, List.drop_tail, List.getElem?_tail]
    rfl

end MailboxRuns

/-- Settles O18. -/
theorem mailboxFifo : Obligations.MailboxFifo := by
  refine ⟨fun bs cs s hmb hfit hbeyond => ?_, fun bs ms b s hmb => ?_⟩
  · have hkept : (bs ++ cs).take mbCap = bs := by
      by_cases hcs : cs = []
      · rw [hcs, List.append_nil, List.take_of_length_le (i := mbCap) hfit]
      · exact List.take_left' (hbeyond hcs)
    rw [execAll_mbPush, foldl_mailboxPush, hmb, List.nil_append, List.length_nil, Nat.sub_zero, hkept]
  · have hlater : (bs ++ b :: ms).drop (bs.length + 1) = ms := by
      rw [List.drop_length_add_append, List.drop_one, List.tail_cons]
    have hlast : (bs ++ b :: ms)[bs.length]? = some b := by
      rw [List.getElem?_append_right le_rfl, Nat.sub_self, List.getElem?_cons_zero]
    rw [execAll_mbPull, hmb, hlater, hlast]

/-! ## The poll loop of mb_wait -/

section MailboxPoll

variable {s : State} {rest : List Task} {deadline : Nat}

/-- R146: a pass that finds no byte pulls `none`, and the deadline decides whether the loop goes on. -/
theorem loopStep_mbPoll_empty (hctl : s.ctl = .k (.mbPoll deadline) :: rest) (hmb : s.mb = []) :
    s.loopStep = .next { s with ret := .byte none, ctl := if s.now < deadline then s.ctl else rest } := by
  have hpull : State.mbPull { s with ctl := rest } = { s with ctl := rest, ret := .byte none } := mbPull_of_empty hmb
  rw [loopStep_k hctl, State.resume, resumeMbPoll, State.mbEmpty, hpull, hmb, List.isEmpty_nil, Bool.true_and, hctl]
  by_cases hearly : s.now < deadline
  · rw [decide_eq_true hearly, if_pos rfl, if_pos hearly]; rfl
  · rw [decide_eq_false hearly, if_neg Bool.false_ne_true, if_neg hearly]

end MailboxPoll

/-- Settles O20. -/
theorem mailboxWait : Obligations.MailboxWait := by
  refine fun _ _ _ _ => ⟨rfl, fun hctl => ⟨fun _ _ => loopStep_mbPoll_waiting hctl, fun hmb hlate => ?_,
    fun hmb hearly => ?_⟩⟩
  · rw [loopStep_mbPoll_empty hctl hmb, if_neg (Nat.not_lt.mpr hlate)]
  · rw [loopStep_mbPoll_empty hctl hmb, if_pos hearly]

end Sys2Proof.Machine

/-! PROOFS. The statements of spec/41_link_receiver.md: RX_EDGE at every bit position (O21) and RX_RESET (O22). -/

namespace Sys2Proof.Machine

open Sys2Proof Sys2Proof.Config

/-! ## RX_EDGE -/

section ServedEdge

variable {s : State} (hie : s.rxIe = true) (hpend : s.rxPending = true)

include hie hpend

/-- R160: with the interrupt on and an edge pending, RX_EDGE runs. -/
theorem exec_rxEdge_of_enabled : exec .rxEdge s = .next s.rxEdge := if_pos (by simp [State.rxEnabled, hie, hpend])

/-- R161: a spurious edge is only taken off. -/
theorem exec_rxEdge_high (hclk : s.clk = true) : exec .rxEdge s = .next { s with rxPending := false } :=
  (exec_rxEdge_of_enabled hie hpend).trans (congrArg _ (rxEdge_high hclk))

variable (hclk : s.clk = false)

include hclk

/-- R170: an edge whose clock is still low takes the sampled bit. -/
theorem exec_rxEdge_low : exec .rxEdge s = .next (State.rxBit s.dat { s with rxPending := false }) :=
  (exec_rxEdge_of_enabled hie hpend).trans (congrArg _ (rxEdge_low hclk))

/-- R162. -/
theorem exec_rxEdge_start (hpos : s.rxPos = 0) :
    exec .rxEdge s = .next (if s.dat then State.rxFail .start { s with rxPending := false }
      else { s with rxPending := false, rxPos := 1 }) :=
  (exec_rxEdge_low hie hpend hclk).trans (congrArg _ (rxBit_start _ hpos))

/-- R163. -/
theorem exec_rxEdge_data (h0 : s.rxPos ≠ 0) (h8 : s.rxPos.val ≤ 8) :
    exec .rxEdge s = .next { s with
      rxPending := false, rxAcc := accNext s.rxAcc s.dat, rxPar := parityNext s.rxPar s.dat, rxPos := s.rxPos + 1 } :=
  (exec_rxEdge_low hie hpend hclk).trans (congrArg _ (rxBit_data _ h0 h8))

/-- R164. -/
theorem exec_rxEdge_parity (hpos : s.rxPos = 9) :
    exec .rxEdge s = .next (if s.dat = s.rxPar then { s with rxPending := false, rxPos := 10 }
      else State.rxFail .parity { s with rxPending := false }) :=
  (exec_rxEdge_low hie hpend hclk).trans (congrArg _ (rxBit_parity _ hpos))

/-- R165. -/
theorem exec_rxEdge_stop (hpos : s.rxPos = 10) :
    exec .rxEdge s = .next (if s.dat then ({ s with rxPending := false }.mbPush s.rxAcc).rxIdle
      else State.rxFail .stop { s with rxPending := false }) :=
  (exec_rxEdge_low hie hpend hclk).trans (congrArg _ (rxBit_stop _ hpos))

end ServedEdge

/-- Settles O21: the clock's level first, then the four kinds of bit, the checked ones by the level they require. -/
theorem receiverEdge : Obligations.ReceiverEdge := by
  intro s hie hpend
  refine ⟨exec_rxEdge_high hie hpend, fun hclk hpos hdat => ?startLow, fun hclk hpos hdat => ?startHigh,
    fun hclk hfirst hlast => exec_rxEdge_data hie hpend hclk (Fin.pos_iff_ne_zero.mp hfirst) hlast,
    fun hclk hpos hdat => ?parityRight, fun hclk hpos hdat => ?parityWrong,
    fun hclk hpos hdat => ?stopHigh, fun hclk hpos hdat => ?stopLow⟩
  case startLow => rw [exec_rxEdge_start hie hpend hclk hpos, hdat]; rfl
  case startHigh => rw [exec_rxEdge_start hie hpend hclk hpos, hdat]; rfl
  case parityRight => rw [exec_rxEdge_parity hie hpend hclk hpos, if_pos hdat]
  case parityWrong => rw [exec_rxEdge_parity hie hpend hclk hpos, if_neg hdat]; rfl
  case stopHigh => rw [exec_rxEdge_stop hie hpend hclk hpos, hdat]; rfl
  case stopLow => rw [exec_rxEdge_stop hie hpend hclk hpos, hdat]; rfl

/-! ## RX_RESET -/

/-- Settles O22: the operation is the return to idle that also drops the pending edge, in every state. -/
theorem receiverReset : Obligations.ReceiverReset := fun _ => rfl

end Sys2Proof.Machine

/-! PROOFS. The statements of spec/42_link_transmitter.md: what each operation of a send does (O28 to O32), what a send
runs first and at its return points (O35), a whole send (O33), and a send that is never answered (O34). -/

namespace Sys2Proof.Machine

open Sys2Proof Sys2Proof.Config

/-! ## The operations of a send -/

section TransmitterOperations

variable {s : State}

/-- R25, R54: driving the clock low is a fall wherever the clock was high. -/
theorem drvClk_low (s : State) : s.drvClk .low = { s with
    hClk := .low, clkPrev := false, rxPending := s.rxPending || (s.clkPrev && s.rxIe) } := by
  simp [State.drvClk, State.edgeDetect, State.clk]

/-- R54, R55: with the interrupt off a change of the block's clock drive is lost. -/
theorem drvClk_of_disabled (h : s.rxIe = false) (x : Drive) :
    s.drvClk x = { s with hClk := x, clkPrev := wiredAnd x s.dClk } := by
  simp [State.drvClk, State.edgeDetect, State.clk, h]

/-- R181. -/
theorem txStart_eq (b : Byte) (s : State) : s.txStart b = { s with
    rxIe := false, rxPos := 0, rxAcc := 0x00, rxPar := true, rxPending := false,
    txByte := b, txI := 0, txDeadline := s.now + s.par.tTx,
    hClk := .rel, hDat := .rel, clkPrev := wiredAnd .rel s.dClk, txPhase := .req1 } := by
  rw [State.txStart, drvClk_of_disabled rfl]
  rfl

theorem exec_txStart (b : Byte) (h : s.txPhase = .off) : exec (.txStart b) s = .next (s.txStart b) := if_pos h

/-- R180. -/
theorem exec_txSend (b : Byte) (h : s.txPhase = .off) :
    exec (.txSend b) s = .next { s with ctl := .op (.txStart b) :: .txRun :: s.ctl } := if_pos h

/-- R182. -/
theorem exec_txReq1 (h : s.txPhase = .req1) : exec .txReq1 s = .next { s.drvClk .low with txPhase := .req2 } :=
  inPhase_eq _ h

theorem exec_txReq2 (h : s.txPhase = .req2) : exec .txReq2 s = .next { s with hDat := .low, txPhase := .req3 } :=
  inPhase_eq _ h

theorem exec_txReq3 (h : s.txPhase = .req3) : exec .txReq3 s = .next { s.drvClk .rel with txPhase := .waitDev } :=
  inPhase_eq _ h

/-- R186. -/
theorem exec_txBitSet (h : s.txPhase = .bitSet) :
    exec .txBitSet s = .next { s with hDat := driveOf (txBit s.txByte s.txI), txPhase := .bitHi } :=
  inPhase_eq _ h

/-- R34: below index 8 the bit to send is a data bit. -/
theorem txBit_data {i : Fin 9} {k : Nat} (b : Byte) (hi : i.val = k) (hk : k < 8) : txBit b i = bit b k := by
  rw [txBit, hi, if_pos hk]

/-- R34: at index 8 it is the parity bit. -/
theorem txBit_parity {i : Fin 9} (b : Byte) (hi : i.val = 8) : txBit b i = oddpar b := by
  rw [txBit, hi, if_neg (by decide)]

/-- R188. -/
theorem exec_txStop (h : s.txPhase = .stop) : exec .txStop s = .next { s with
    hDat := .rel, txPhase := if s.par.txAckWaitLow then .ackLow else .waitAck } :=
  inPhase_eq _ h

/-- R29, R55: enabling the interrupt keeps a pending edge. -/
theorem setRxIe_true (s : State) : s.setRxIe true = { s with rxIe := true } := by
  rw [State.setRxIe, Bool.and_true]

/-- R190. -/
theorem exec_txDone (h : s.txPhase = .done) :
    exec .txDone s = .next { s with rxIe := true, txPhase := .off, ret := .status true } :=
  (inPhase_eq _ h).trans (by rw [setRxIe_true]; rfl)

/-- R191. -/
theorem txAbort_eq (s : State) : s.txAbort = { s with
    hClk := .low, hDat := .rel, clkPrev := false, rxPending := s.rxPending || (s.clkPrev && s.rxIe),
    err := 0x04, txPhase := .off, ret := .status false } := by
  rw [State.txAbort, State.busStop, drvClk_low]
  rfl

/-- R191, R195: with the interrupt off no edge becomes pending. -/
theorem txAbort_of_disabled (h : s.rxIe = false) : s.txAbort = { s with
    hClk := .low, hDat := .rel, clkPrev := false, err := 0x04, txPhase := .off, ret := .status false } := by
  rw [txAbort_eq, h, Bool.and_false, Bool.or_false]

/-- R192: the first of its two steps. -/
theorem exec_busStop (s : State) : exec .busStop s = .next { s with
    hClk := .low, clkPrev := false, rxPending := s.rxPending || (s.clkPrev && s.rxIe),
    ctl := .k .busStopDat :: s.ctl } :=
  congrArg (fun t : State => (.next (t.call [.k .busStopDat]) : Out)) (drvClk_low s)

/-- R183: in its phase a wait whose condition holds goes on. -/
theorem wait_met {p : TxPhase} {c : Bool} (t : State) (h : s.txPhase = p) (hc : c = true) :
    s.inPhase p (s.txWait c t) = .next t := by
  rw [inPhase_eq _ h, hc, txWait_cond]

/-- R183: else the deadline aborts it. -/
theorem wait_late {p : TxPhase} {c : Bool} (t : State) (h : s.txPhase = p) (hc : c = false)
    (hlate : s.txDeadline ≤ s.now) : s.inPhase p (s.txWait c t) = exec .txAbort s := by
  rw [inPhase_eq _ h, hc, txWait_late t hlate]
  rfl

/-- R183: before the deadline the phase stays. -/
theorem wait_early {p : TxPhase} {c : Bool} (t : State) (h : s.txPhase = p) (hc : c = false)
    (hearly : s.now < s.txDeadline) : s.inPhase p (s.txWait c t) = .next s := by
  rw [inPhase_eq _ h, hc, txWait_stay t hearly]

/-- R184. -/
theorem exec_txWaitDev (s : State) :
    exec .txWaitDev s = s.inPhase .waitDev (s.txWait (!s.clk) { s with txPhase := .bitSet }) := rfl

/-- R187. -/
theorem exec_txBitHi (s : State) :
    exec .txBitHi s = s.inPhase .bitHi (s.txWait s.clk { s with txPhase := .bitLo }) := rfl

theorem exec_txBitLo (s : State) : exec .txBitLo s = s.inPhase .bitLo (s.txWait (!s.clk) s.txNextBit) := rfl

/-- R189: outside the extra wait TX_WAIT_ACK waits for both lines high. -/
theorem exec_txWaitAck (h : s.txPhase = .waitAck) :
    exec .txWaitAck s = s.inPhase .waitAck (s.txWait (s.clk && s.dat) { s with txPhase := .done }) :=
  if_neg (by rw [h]; decide)

/-- R189, D15: the extra wait is for the acknowledge bit. -/
theorem exec_txWaitAck_ackLow (h : s.txPhase = .ackLow) :
    exec .txWaitAck s = s.inPhase .ackLow (s.txWait (!s.dat) { s with txPhase := .waitAck }) :=
  (if_pos h).trans (inPhase_eq _ h).symm

/-- R187: after a bit that is not the last comes the next one. -/
theorem txNextBit_next (h : s.txI.val < 8) : s.txNextBit = { s with txI := s.txI + 1, txPhase := .bitSet } := if_pos h

/-- R187: after the parity bit comes the stop bit. -/
theorem txNextBit_last (h : s.txI.val = 8) : s.txNextBit = { s with txPhase := .stop } := if_neg (by omega)

end TransmitterOperations

/-- R16: a refused operation gives no next state. -/
theorem ne_next_of_refused {o : Out} {r : Refusal} (h : o = .refused r) (t : State) : o ≠ .next t := by
  rw [h]; nofun

/-- Settles O28. -/
theorem transmitStart : Obligations.TransmitStart := by
  intro b s
  refine ⟨fun hoff => ?_, fun hsending => ?_⟩
  · rw [exec_txStart b hoff, txStart_eq]
  · obtain ⟨hrefused, -⟩ := send_refused_while_sending hsending b
    exact ne_next_of_refused hrefused

/-- Settles O29. -/
theorem transmitRequest : Obligations.TransmitRequest := by
  intro s
  refine ⟨fun h => ?req1, exec_txReq2, exec_txReq3, fun h => ?out1, fun h => ?out2, fun h => ?out3⟩
  case req1 => rw [exec_txReq1 h, drvClk_low]
  case out1 => exact ne_next_of_refused (inPhase_refused _ h)
  case out2 => exact ne_next_of_refused (inPhase_refused _ h)
  case out3 => exact ne_next_of_refused (inPhase_refused _ h)

/-- Settles O30: every wait is the common one, with its own condition and its own success step. -/
theorem transmitWaits : Obligations.TransmitWaits := by
  intro s
  refine ⟨fun h => ?waitDev, fun h => ?bitHi, fun h => ?bitLo, fun h => ?waitAck, fun h => ?ackLow⟩
  case waitDev =>
    rw [exec_txWaitDev]
    exact ⟨fun hclk => wait_met _ h (congrArg not hclk), fun hclk => wait_late _ h (congrArg not hclk),
      fun hclk => wait_early _ h (congrArg not hclk)⟩
  case bitHi =>
    rw [exec_txBitHi]
    exact ⟨wait_met _ h, wait_late _ h, wait_early _ h⟩
  case bitLo =>
    rw [exec_txBitLo]
    exact ⟨fun hclk hi => txNextBit_next hi ▸ wait_met s.txNextBit h (congrArg not hclk),
      fun hclk hi => txNextBit_last hi ▸ wait_met s.txNextBit h (congrArg not hclk),
      fun hclk => wait_late _ h (congrArg not hclk), fun hclk => wait_early _ h (congrArg not hclk)⟩
  case waitAck =>
    rw [exec_txWaitAck h]
    exact ⟨fun hclk hdat => wait_met _ h (Bool.and_eq_true_iff.mpr ⟨hclk, hdat⟩),
      fun hlow => wait_late _ h (Bool.and_eq_false_iff.mpr hlow),
      fun hlow => wait_early _ h (Bool.and_eq_false_iff.mpr hlow)⟩
  case ackLow =>
    rw [exec_txWaitAck_ackLow h]
    exact ⟨fun hdat => wait_met _ h (congrArg not hdat), fun hdat => wait_late _ h (congrArg not hdat),
      fun hdat => wait_early _ h (congrArg not hdat)⟩

/-- Settles O31. -/
theorem transmitBit : Obligations.TransmitBit := by
  intro s h
  rw [exec_txBitSet h]
  exact ⟨fun k hk hi => by rw [txBit_data _ hi hk, driveOf], fun hi => by rw [txBit_parity _ hi, driveOf]⟩

/-- Settles O32. -/
theorem transmitEnd : Obligations.TransmitEnd := fun s =>
  ⟨exec_txStop, exec_txDone, congrArg _ (txAbort_eq s), exec_busStop s, fun _ hctl => loopStep_k hctl⟩

/-! ## The return points of send_cmd and expect -/

section ReturnPoints

variable {s : State} {rest : List Task} {t : Nat} {v : Byte}

/-- R203: after a failed send there is no wait for a response. -/
theorem loopStep_cmdSent_fail (hctl : s.ctl = .k (.cmdSent t) :: rest) (hret : s.ret.isOk = false) :
    s.loopStep = .next { s with ret := .reply none, ctl := rest } :=
  (loopStep_k hctl).trans (congrArg _ (if_neg (by simp [hret])))

/-- R203: a byte sent waits for its response. -/
theorem loopStep_cmdSent_ok (hctl : s.ctl = .k (.cmdSent t) :: rest) (hret : s.ret.isOk = true) :
    s.loopStep = .next { s with ctl := .op (.mbWait t) :: .k .hsReply :: rest } :=
  (loopStep_k hctl).trans (congrArg _ (if_pos hret))

/-- R203, R204: no byte within the bound. -/
theorem loopStep_hsReply_late (hctl : s.ctl = .k .hsReply :: rest) (hret : s.ret.byteGot = none) :
    s.loopStep = .next { s with err := 0x05, ret := .reply none, ctl := rest } := by
  rw [loopStep_k hctl]
  simp only [State.resume, resumeHsReply, hret]
  rfl

/-- R203, R204: a byte, whatever its value. -/
theorem loopStep_hsReply_got (hctl : s.ctl = .k .hsReply :: rest) (hret : s.ret.byteGot = some v) :
    s.loopStep = .next { s with ret := .reply (some v), ctl := rest } := by
  rw [loopStep_k hctl]
  simp only [State.resume, resumeHsReply, hret]
  rfl

/-- R211: the reset command acknowledged, the self-test byte is expected. -/
theorem loopStep_resetBat_ok (hctl : s.ctl = .k .resetBat :: rest) (hret : s.ret.isOk = true) :
    s.loopStep = .next { s with ctl := .op (.mbWait s.par.tBat) :: .k .hsReply :: .k .resetId :: rest } :=
  (loopStep_k hctl).trans (congrArg _ (if_pos hret))

/-- R211: then the ID byte. -/
theorem loopStep_resetId_ok (hctl : s.ctl = .k .resetId :: rest) (hret : s.ret.isOk = true) :
    s.loopStep = .next { s with ctl := .op (.mbWait s.par.tId) :: .k .hsReply :: rest } :=
  (loopStep_k hctl).trans (congrArg _ (if_pos hret))

/-- R211: a byte missing abandons SS_RESET. -/
theorem loopStep_reset_fail (hctl : s.ctl = .k .resetBat :: rest ∨ s.ctl = .k .resetId :: rest)
    (hret : s.ret.isOk = false) : s.loopStep = .next { s with ret := .status false, ctl := rest } := by
  have hfail : ¬ s.ret.isOk = true := by simp [hret]
  rcases hctl with hctl | hctl
  · exact (loopStep_k hctl).trans (congrArg _ (if_neg hfail))
  · exact (loopStep_k hctl).trans (congrArg _ (if_neg hfail))

end ReturnPoints

/-- Settles O35: the value in `ret` picks the case of each return point. -/
theorem sendCommand : Obligations.SendCommand := by
  refine fun b t rest s => ⟨exec_txSend b, fun hoff hctl => loopStep_txRun_off hctl hoff, rfl,
    fun hctl hret => loopStep_cmdSent_fail hctl ?_, fun hctl hret => loopStep_cmdSent_ok hctl ?_,
    fun hctl hret => loopStep_hsReply_late hctl ?_, fun v hctl hret => loopStep_hsReply_got hctl ?_,
    fun v hctl hret => loopStep_resetBat_ok hctl ?_, fun v hctl hret => loopStep_resetId_ok hctl ?_,
    fun hctl hret => loopStep_reset_fail hctl ?_⟩ <;>
  (rw [hret]; rfl)

/-! ## Moves, with the levels the device sees -/

/-- Moves made one after another from a state with no operation in the slot, and the levels of the data line at the
device's rising clock edges among them (R193): by its two lemmas below a part of a run of `runMoves` and of
`levelsAtRises`. -/
inductive Moves : List Move → State → List Bool → State → Prop where
  | refl {s : State} : Moves [] s [] s
  | step {m : Move} {ms : List Move} {s t u : State} {ls : List Bool} (hslot : s.slot = none)
      (hmove : s.makeMove m = .next t) (hrun : Moves ms t ls u) :
      Moves (m :: ms) s ((if m = .devClk .rel then [t.dat] else []) ++ ls) u

section MovesRules

variable {s t u : State} {ms ns : List Move} {ls ks : List Bool}

theorem Moves.runMoves_eq (h : Moves ms s ls t) : runMoves ms s = .next t := by
  induction h with
  | refl => rfl
  | step hslot hmove _ ih => rw [runMoves_cons hslot hmove, ih]

theorem Moves.levelsAtRises_eq (h : Moves ms s ls t) : levelsAtRises ms s = ls := by
  induction h with
  | refl => rfl
  | step _ hmove _ ih => simp only [levelsAtRises, hmove, ih]

theorem Moves.trans (h : Moves ms s ls t) (h' : Moves ns t ks u) : Moves (ms ++ ns) s (ls ++ ks) u := by
  induction h with
  | refl => exact h'
  | step hslot hmove _ ih => rw [List.append_assoc]; exact .step hslot hmove (ih h')

/-- Log 7: the loop context takes its next step. -/
theorem Moves.loop (hslot : s.slot = none) (h : s.loopStep = .next t) (hrun : Moves ms t ls u) :
    Moves (.loop :: ms) s ls u := .step hslot h hrun

/-- R193: at a rise of its clock the device sees a level of the data line. -/
theorem Moves.rise {d : Bool} (hslot : s.slot = none) (h : s.devClk .rel = t) (hlevel : t.dat = d)
    (hrun : Moves ms t ls u) : Moves (.devClk .rel :: ms) s (d :: ls) u :=
  hlevel ▸ .step hslot (congrArg Host.Outcome.next h) hrun

theorem Moves.fall (hslot : s.slot = none) (h : s.devClk .low = t) (hrun : Moves ms t ls u) :
    Moves (.devClk .low :: ms) s ls u := .step hslot (congrArg Host.Outcome.next h) hrun

theorem Moves.data {x : Drive} (hslot : s.slot = none) (h : s.devDat x = t) (hrun : Moves ms t ls u) :
    Moves (.devDat x :: ms) s ls u := .step hslot (congrArg Host.Outcome.next h) hrun

end MovesRules

/-! ## A send in progress -/

/-- The four drives of the two lines (R22). -/
structure Lines where
  hClk : Drive
  hDat : Drive
  dClk : Drive
  dDat : Drive

/-- A send of `b` begun in `s`, in a phase, at a bit index, with these drives (R181 to R190). -/
def State.sendAt (b : Byte) (rest : List Task) (p : TxPhase) (i : Fin 9) (l : Lines) (s : State) : State :=
  { s with
    hClk := l.hClk, hDat := l.hDat, dClk := l.dClk, dDat := l.dDat, clkPrev := wiredAnd l.hClk l.dClk,
    rxPos := 0, rxAcc := 0x00, rxPar := true, rxIe := false, rxPending := false,
    txPhase := p, txByte := b, txI := i, txDeadline := s.now + s.par.tTx, ctl := .txRun :: rest }

section SendSteps

variable {s : State} {b : Byte} {rest : List Task} {p : TxPhase} {i : Fin 9} {l : Lines}

/-- R54, R84: a change of the device's clock is lost to the receiver. -/
theorem sendAt_devClk (x : Drive) :
    (s.sendAt b rest p i l).devClk x = s.sendAt b rest p i { l with dClk := x } := devClk_of_disabled rfl x

theorem sendAt_devDat (x : Drive) :
    (s.sendAt b rest p i l).devDat x = s.sendAt b rest p i { l with dDat := x } := rfl

theorem sendAt_drvClk (x : Drive) :
    (s.sendAt b rest p i l).drvClk x = s.sendAt b rest p i { l with hClk := x } := drvClk_of_disabled rfl x

/-- R180: while a send is in progress the loop context runs the operation of its phase. -/
theorem loopStep_sendAt {j : Instr} (hj : p.instr = some j) :
    (s.sendAt b rest p i l).loopStep = exec j (s.sendAt b rest p i l) := loopStep_txRun rfl hj

/-- R181: TX_START begins the send with both lines released by the block. -/
theorem loopStep_txStart (hctl : s.ctl = .op (.txStart b) :: .txRun :: rest) (hoff : s.txPhase = .off) :
    s.loopStep = .next (s.sendAt b rest .req1 0 ⟨.rel, .rel, s.dClk, s.dDat⟩) := by
  have hstart : exec (.txStart b) { s with ctl := .txRun :: rest } = .next (State.txStart b _) := exec_txStart b hoff
  rw [loopStep_op hctl, hstart, txStart_eq]
  rfl

/-- R182. -/
theorem loopStep_req1 : (s.sendAt b rest .req1 i l).loopStep =
    .next (s.sendAt b rest .req2 i { l with hClk := .low }) := by
  rw [loopStep_sendAt rfl, exec_txReq1 rfl, sendAt_drvClk]
  rfl

theorem loopStep_req2 : (s.sendAt b rest .req2 i l).loopStep =
    .next (s.sendAt b rest .req3 i { l with hDat := .low }) := by
  rw [loopStep_sendAt rfl, exec_txReq2 rfl]
  rfl

theorem loopStep_req3 : (s.sendAt b rest .req3 i l).loopStep =
    .next (s.sendAt b rest .waitDev i { l with hClk := .rel }) := by
  rw [loopStep_sendAt rfl, exec_txReq3 rfl, sendAt_drvClk]
  rfl

/-- R184: the device has taken the clock. -/
theorem loopStep_waitDev (hclk : wiredAnd l.hClk l.dClk = false) :
    (s.sendAt b rest .waitDev i l).loopStep = .next (s.sendAt b rest .bitSet i l) := by
  rw [loopStep_sendAt rfl, exec_txWaitDev]
  exact wait_met _ rfl (congrArg not hclk)

/-- R186. -/
theorem loopStep_bitSet : (s.sendAt b rest .bitSet i l).loopStep =
    .next (s.sendAt b rest .bitHi i { l with hDat := driveOf (txBit b i) }) := by
  rw [loopStep_sendAt rfl, exec_txBitSet rfl]
  rfl

/-- R187. -/
theorem loopStep_bitHi (hclk : wiredAnd l.hClk l.dClk = true) :
    (s.sendAt b rest .bitHi i l).loopStep = .next (s.sendAt b rest .bitLo i l) := by
  rw [loopStep_sendAt rfl, exec_txBitHi]
  exact wait_met _ rfl hclk

theorem loopStep_bitLo (hclk : wiredAnd l.hClk l.dClk = false) :
    (s.sendAt b rest .bitLo i l).loopStep = .next (s.sendAt b rest .bitLo i l).txNextBit := by
  rw [loopStep_sendAt rfl, exec_txBitLo]
  exact wait_met _ rfl (congrArg not hclk)

/-- R188: the stop bit, then the wait for both lines high. -/
theorem loopStep_stop (hack : s.par.txAckWaitLow = false) :
    (s.sendAt b rest .stop i l).loopStep = .next (s.sendAt b rest .waitAck i { l with hDat := .rel }) := by
  have hpar : (s.sendAt b rest .stop i l).par.txAckWaitLow = false := hack
  rw [loopStep_sendAt rfl, exec_txStop rfl, hpar]
  rfl

/-- R188, log 9: the stop bit, then the extra wait. -/
theorem loopStep_stop_ackWait (hack : s.par.txAckWaitLow = true) :
    (s.sendAt b rest .stop i l).loopStep = .next (s.sendAt b rest .ackLow i { l with hDat := .rel }) := by
  have hpar : (s.sendAt b rest .stop i l).par.txAckWaitLow = true := hack
  rw [loopStep_sendAt rfl, exec_txStop rfl, hpar]
  rfl

/-- D15: before the acknowledge bit the extra wait goes on. -/
theorem loopStep_ackLow_early (hdat : wiredAnd l.hDat l.dDat = true) (htTx : 0 < s.par.tTx) :
    (s.sendAt b rest .ackLow i l).loopStep = .next (s.sendAt b rest .ackLow i l) := by
  rw [loopStep_sendAt rfl, exec_txWaitAck_ackLow rfl]
  exact wait_early _ rfl (congrArg not hdat) (Nat.lt_add_of_pos_right htTx)

/-- D15: the acknowledge bit. -/
theorem loopStep_ackLow (hdat : wiredAnd l.hDat l.dDat = false) :
    (s.sendAt b rest .ackLow i l).loopStep = .next (s.sendAt b rest .waitAck i l) := by
  rw [loopStep_sendAt rfl, exec_txWaitAck_ackLow rfl]
  exact wait_met _ rfl (congrArg not hdat)

/-- R189: while the device holds a line the wait goes on. -/
theorem loopStep_waitAck_early (hline : wiredAnd l.hClk l.dClk = false ∨ wiredAnd l.hDat l.dDat = false)
    (htTx : 0 < s.par.tTx) : (s.sendAt b rest .waitAck i l).loopStep = .next (s.sendAt b rest .waitAck i l) := by
  rw [loopStep_sendAt rfl, exec_txWaitAck rfl]
  exact wait_early _ rfl (Bool.and_eq_false_iff.mpr hline) (Nat.lt_add_of_pos_right htTx)

/-- R189: both lines are high. -/
theorem loopStep_waitAck (hclk : wiredAnd l.hClk l.dClk = true) (hdat : wiredAnd l.hDat l.dDat = true) :
    (s.sendAt b rest .waitAck i l).loopStep = .next (s.sendAt b rest .done i l) := by
  rw [loopStep_sendAt rfl, exec_txWaitAck rfl]
  exact wait_met _ rfl (Bool.and_eq_true_iff.mpr ⟨hclk, hdat⟩)

/-- The send ended in `ok`, its return point to come (R190). -/
def State.sendOk (b : Byte) (rest : List Task) (l : Lines) (s : State) : State :=
  { s.sendAt b rest .off 8 l with rxIe := true, ret := .status true }

theorem loopStep_done : (s.sendAt b rest .done 8 l).loopStep = .next (s.sendOk b rest l) :=
  (loopStep_sendAt rfl).trans (exec_txDone rfl)

/-- R180: at its return point the send is off the control stack. -/
theorem loopStep_sendOk : (s.sendOk b rest l).loopStep = .next { s.sendOk b rest l with ctl := rest } :=
  loopStep_txRun_off rfl rfl

/-- R24: the level of the data line under the block's drive of a bit. -/
theorem wiredAnd_driveOf_rel (v : Bool) : wiredAnd (driveOf v) .rel = v := by cases v <;> rfl

/-- R193: the bits of a send in the order of their indices. -/
theorem map_txBit (b : Byte) : (List.finRange 9).map (txBit b) =
    [bit b 0, bit b 1, bit b 2, bit b 3, bit b 4, bit b 5, bit b 6, bit b 7, oddpar b] := rfl

end SendSteps

/-! ## A send, part by part -/

section SendRuns

variable {s : State} {b : Byte} {rest : List Task} (hslot : s.slot = none)

include hslot

/-- R180 to R182: a tx_send up to its wait for the device. -/
theorem moves_request (hctl : s.ctl = .op (.txSend b) :: rest) (hoff : s.txPhase = .off) :
    Moves [.loop, .loop, .loop, .loop, .loop] s [] (s.sendAt b rest .waitDev 0 ⟨.rel, .low, s.dClk, s.dDat⟩) := by
  have hcall : s.loopStep = .next { s with ctl := .op (.txStart b) :: .txRun :: rest } :=
    (loopStep_op hctl).trans (exec_txSend b hoff)
  exact .loop hslot hcall <| .loop hslot (loopStep_txStart rfl hoff) <| .loop hslot loopStep_req1 <|
    .loop hslot loopStep_req2 <| .loop hslot loopStep_req3 .refl

/-- R186, R187: one bit, up to the poll of the device's fall after it. -/
theorem moves_bit (i : Fin 9) (d : Drive) :
    Moves [.loop, .devClk .rel, .loop, .devClk .low] (s.sendAt b rest .bitSet i ⟨.rel, d, .low, .rel⟩) [txBit b i]
      (s.sendAt b rest .bitLo i ⟨.rel, driveOf (txBit b i), .low, .rel⟩) :=
  .loop hslot loopStep_bitSet <| .rise hslot (sendAt_devClk _) (wiredAnd_driveOf_rel _) <|
    .loop hslot (loopStep_bitHi rfl) <| .fall hslot (sendAt_devClk _) .refl

/-- R187: a bit that is not the last, and on to the next. -/
theorem moves_bit_next {i : Fin 9} (d : Drive) (hi : i.val < 8) :
    Moves bitMoves (s.sendAt b rest .bitSet i ⟨.rel, d, .low, .rel⟩) [txBit b i]
      (s.sendAt b rest .bitSet (i + 1) ⟨.rel, driveOf (txBit b i), .low, .rel⟩) :=
  (moves_bit hslot i d).trans <| .loop hslot ((loopStep_bitLo rfl).trans (congrArg _ (txNextBit_next hi))) .refl

/-- R187: the parity bit, and on to the stop bit. -/
theorem moves_bit_last (d : Drive) :
    Moves bitMoves (s.sendAt b rest .bitSet 8 ⟨.rel, d, .low, .rel⟩) [txBit b 8]
      (s.sendAt b rest .stop 8 ⟨.rel, driveOf (txBit b 8), .low, .rel⟩) :=
  (moves_bit hslot 8 d).trans <| .loop hslot ((loopStep_bitLo rfl).trans (congrArg _ (txNextBit_last rfl))) .refl

/-- R186, R193: the bits from an index on, in index order. -/
theorem moves_bits (n : Nat) (i : Fin 9) (d : Drive) (hn : i.val + n = 8) :
    Moves (List.replicate (n + 1) bitMoves).flatten (s.sendAt b rest .bitSet i ⟨.rel, d, .low, .rel⟩)
      (((List.finRange 9).drop i).map (txBit b))
      (s.sendAt b rest .stop 8 ⟨.rel, driveOf (txBit b 8), .low, .rel⟩) := by
  induction n generalizing i d with
  | zero =>
    obtain rfl : i = 8 := Fin.ext hn
    exact moves_bit_last hslot d
  | succ n ih =>
    have hi : i.val < 8 := by omega
    have hnext : (i + 1).val = i.val + 1 := Fin.val_add_one_of_lt hi
    have hrest := ih (i + 1) (driveOf (txBit b i)) (by omega)
    have hbits : (List.finRange 9).drop i = i :: (List.finRange 9).drop (i + 1).val := by
      rw [hnext, List.drop_eq_getElem_cons (by simp), List.getElem_finRange]
      rfl
    rw [hbits]
    exact (moves_bit_next hslot d hi).trans hrest

/-- R180 to R187: a tx_send up to its stop bit. -/
theorem moves_sendBits (hctl : s.ctl = .op (.txSend b) :: rest) (hoff : s.txPhase = .off) (hdat : s.dDat = .rel) :
    Moves (.loop :: sendBitsMoves) s
      [bit b 0, bit b 1, bit b 2, bit b 3, bit b 4, bit b 5, bit b 6, bit b 7, oddpar b]
      (s.sendAt b rest .stop 8 ⟨.rel, driveOf (oddpar b), .low, .rel⟩) := by
  have htaken : Moves [.devClk .low, .loop] (s.sendAt b rest .waitDev 0 ⟨.rel, .low, s.dClk, s.dDat⟩) []
      (s.sendAt b rest .bitSet 0 ⟨.rel, .low, .low, .rel⟩) := by
    rw [hdat]
    exact .fall hslot (sendAt_devClk _) <| .loop hslot (loopStep_waitDev rfl) .refl
  exact ((moves_request hslot hctl hoff).trans htaken).trans (moves_bits hslot 8 0 .low rfl)

/-- R188 to R190: the stop bit against a device that gives no acknowledge pulse. -/
theorem moves_stop (d : Drive) (hack : s.par.txAckWaitLow = false) :
    Moves [.loop, .devClk .rel, .devDat .rel, .loop, .loop] (s.sendAt b rest .stop 8 ⟨.rel, d, .low, .rel⟩) [true]
      (s.sendOk b rest ⟨.rel, .rel, .rel, .rel⟩) :=
  .loop hslot (loopStep_stop hack) <| .rise hslot (sendAt_devClk _) rfl <| .data hslot (sendAt_devDat _) <|
    .loop hslot (loopStep_waitAck rfl rfl) <| .loop hslot loopStep_done .refl

/-- R352: with the default wait, a poll before the acknowledge pulse ends the send, and the pulse is a start bit. -/
theorem moves_stop_hazard (d : Drive) (hack : s.par.txAckWaitLow = false) :
    Moves [.loop, .devClk .rel, .loop, .loop, .devDat .low, .devClk .low, .isr]
      (s.sendAt b rest .stop 8 ⟨.rel, d, .low, .rel⟩) [true]
      { s.sendOk b rest ⟨.rel, .rel, .low, .low⟩ with rxPos := 1 } := by
  have hserved : State.isrStep { s.sendOk b rest ⟨.rel, .rel, .low, .low⟩ with rxPending := true } =
      .next { s.sendOk b rest ⟨.rel, .rel, .low, .low⟩ with rxPos := 1 } :=
    (isrStep_enabled rfl rfl).trans (exec_rxEdge_start rfl rfl rfl rfl)
  exact .loop hslot (loopStep_stop hack) <| .rise hslot (sendAt_devClk _) rfl <|
    .loop hslot (loopStep_waitAck rfl rfl) <| .loop hslot loopStep_done <| .data hslot rfl <| .fall hslot rfl <|
    .step hslot hserved .refl

/-- R352, D15: with the extra wait, the send polled at each point of the acknowledge pulse. -/
theorem moves_stop_ackWait (d : Drive) (hack : s.par.txAckWaitLow = true) (htTx : 0 < s.par.tTx) :
    Moves [.loop, .devClk .rel, .loop, .devDat .low, .loop, .devClk .low, .loop, .devClk .rel, .devDat .rel,
        .loop, .loop]
      (s.sendAt b rest .stop 8 ⟨.rel, d, .low, .rel⟩) [true, false] (s.sendOk b rest ⟨.rel, .rel, .rel, .rel⟩) :=
  .loop hslot (loopStep_stop_ackWait hack) <| .rise hslot (sendAt_devClk _) rfl <|
    .loop hslot (loopStep_ackLow_early rfl htTx) <| .data hslot (sendAt_devDat _) <|
    .loop hslot (loopStep_ackLow rfl) <| .fall hslot (sendAt_devClk _) <|
    .loop hslot (loopStep_waitAck_early (.inl rfl) htTx) <| .rise hslot (sendAt_devClk _) rfl <|
    .data hslot (sendAt_devDat _) <| .loop hslot (loopStep_waitAck rfl rfl) <| .loop hslot loopStep_done .refl

end SendRuns

/-- Settles O33: the bits of the byte, then each of the three endings, then the return point. -/
theorem sendWhole : Obligations.SendWhole := by
  intro b rest s hslot hctl hoff hdat sent
  have hbits := moves_sendBits hslot hctl hoff hdat
  have hreturn := Moves.loop (s := s.sendOk b rest ⟨.rel, .rel, .rel, .rel⟩) hslot loopStep_sendOk .refl
  refine ⟨fun hack => ?plain, fun hack => ?hazard, fun hack htTx => ?ackWait⟩
  case plain =>
    have hsend := hbits.trans (moves_stop hslot _ hack)
    exact ⟨(hsend.trans hreturn).runMoves_eq, hsend.levelsAtRises_eq⟩
  case hazard =>
    have hstart := Moves.loop (s := { s.sendOk b rest ⟨.rel, .rel, .low, .low⟩ with rxPos := 1 }) hslot
      (loopStep_txRun_off rfl rfl) .refl
    exact ((hbits.trans (moves_stop_hazard hslot _ hack)).trans hstart).runMoves_eq
  case ackWait => exact ((hbits.trans (moves_stop_ackWait hslot _ hack htTx)).trans hreturn).runMoves_eq

/-- R183, R184: past the deadline a device that has not taken the clock aborts the send. -/
theorem loopStep_waitDev_late {s : State} {rest : List Task} (hctl : s.ctl = .txRun :: rest)
    (hp : s.txPhase = .waitDev) (hclk : s.clk = true) (hlate : s.txDeadline ≤ s.now) :
    s.loopStep = .next s.txAbort := by
  rw [loopStep_txRun hctl (by rw [hp]; rfl), exec_txWaitDev]
  exact wait_late _ hp (congrArg not hclk) hlate

/-- Settles O34: the request, then the wait for the device past its deadline, then the return point. -/
theorem sendTimesOut : Obligations.SendTimesOut := by
  intro b wait rest s hslot hctl hoff hclk hwait
  have hlate := loopStep_waitDev_late
    (s := { s.sendAt b rest .waitDev 0 ⟨.rel, .low, s.dClk, s.dDat⟩ with now := s.now + wait })
    rfl rfl (congrArg (wiredAnd .rel) hclk) (Nat.add_le_add_left hwait s.now)
  rw [txAbort_of_disabled rfl] at hlate
  have hfails : Moves [.clock wait, .loop, .loop] (s.sendAt b rest .waitDev 0 ⟨.rel, .low, s.dClk, s.dDat⟩) [] _ :=
    .step hslot rfl <| .loop hslot hlate <| .loop hslot (loopStep_txRun_off rfl rfl) .refl
  exact ((moves_request hslot hctl hoff).trans hfails).runMoves_eq

end Sys2Proof.Machine

/-! PROOFS. The statements of spec/43_session_controller.md: a desynchronised session has its error recorded (O9),
the steps of the bring-up (O36) and its return point (O38). -/

namespace Sys2Proof.Machine

open Sys2Proof Sys2Proof.Config

/-! ## What the loop context leaves in place of an entry it has run -/

/-- An entry that acts on no earlier result: it may stand on top of the control stack whatever `ret` holds. -/
def Task.startsAfresh : Task → Bool
  | .op _ => true
  | .txRun => false
  | .k c => !c.awaitsStatus

/-- R220: the error of a desynchronised session is recorded. -/
def ErrorRecorded (s : State) : Prop := s.sess = .desync → s.err ≠ 0

/-- These entries may take the place of `x`: the first starts afresh, each feeds the next, and the last leaves in
`ret` what `x` leaves there. -/
def Task.becomes (x : Task) (ts : List Task) : Bool :=
  match ts.head?, ts.getLast? with
  | some y, some l => y.startsAfresh && ctlFed ts && (!x.givesStatus || l.givesStatus)
  | _, _ => false

/-- What running an entry other than TX_START does, from the state with that entry taken off: it calls others in its
place, or it is over, and where it ends in `fail` an error is recorded. -/
inductive Task.Runs (x : Task) (s t : State) : Prop
  | calls (ts : List Task) (hctl : t.ctl = ts ++ s.ctl) (hbecomes : x.becomes ts = true) (hrec : ErrorRecorded t)
  | ends (hctl : t.ctl = s.ctl) (hstatus : x.givesStatus = true → t.ret.isOk = false → t.err ≠ 0)
      (hrec : ErrorRecorded t)

section Runs

variable {x y : Task} {s t u : State} {ts rest : List Task}

theorem becomes_iff : x.becomes ts = true ↔ ∃ y l, ts.head? = some y ∧ ts.getLast? = some l ∧
    y.startsAfresh = true ∧ ctlFed ts = true ∧ (x.givesStatus = true → l.givesStatus = true) := by
  unfold Task.becomes
  split
  next y l hy hl =>
    rw [hy, hl]
    cases x.givesStatus <;> simp [and_assoc]
  next hnone =>
    refine iff_of_false nofun ?_
    rintro ⟨y, l, hy, hl, -⟩
    exact hnone y l hy hl

theorem Task.Runs.call (hrec : ErrorRecorded s) (hbecomes : x.becomes ts = true) : x.Runs s (s.call ts) :=
  .calls ts rfl hbecomes hrec

theorem Task.Runs.returning (hrec : ErrorRecorded s) {r : Ret} (hr : x.givesStatus = true → r.isOk = false → s.err ≠ 0) :
    x.Runs s (s.returning r) :=
  .ends rfl hr hrec

/-- Where an error stands recorded an entry may be over, whatever it leaves. -/
theorem Task.Runs.fails (hctl : t.ctl = s.ctl) (herr : t.err ≠ 0) : x.Runs s t :=
  .ends hctl (fun _ _ => herr) fun _ => herr

/-- An entry on top that starts afresh has no failure to act on. -/
theorem failureRaised_of_startsAfresh (h : t.ctl.head? = some y) (hy : y.startsAfresh = true) : failureRaised t := by
  refine ⟨fun c rest hc hawait => ?_, fun rest hc => ?_⟩
  · obtain rfl : .k c = y := by simpa [hc] using h
    simp [Task.startsAfresh, hawait] at hy
  · obtain rfl : .txRun = y := by simpa [hc] using h
    cases hy

/-- Log 7: the entry under one that has been run finds what it acts on. -/
theorem failureRaised_of_ends (hfed : ctlFed (x :: rest) = true) (hx : x.startsSend = false) (hctl : t.ctl = rest)
    (hstatus : x.givesStatus = true → t.ret.isOk = false → t.err ≠ 0) : failureRaised t := by
  subst hctl
  refine ⟨fun c rest hc hawait => ?_, fun rest hc => ?_⟩ <;>
    simp only [hc, ctlFed, Bool.and_eq_true, Task.feeds] at hfed
  · exact hstatus (by simpa [hawait] using hfed.1)
  · exact absurd hfed.1 (by simp [hx])

theorem ctlFed_becomes (hfed : ctlFed (x :: rest) = true) (hx : x.startsSend = false) (h : x.becomes ts = true) :
    ctlFed (ts ++ rest) = true := by
  obtain ⟨-, l, -, hl, -, hts, hgives⟩ := becomes_iff.mp h
  obtain ⟨init, rfl⟩ := List.getLast?_eq_some_iff.mp hl
  exact ctlFed_replace hfed hts (by simp [hx]) hgives

/-- R220: running an entry of the control stack keeps the invariant. -/
theorem DesyncInv.of_runs (h : DesyncInv s) (hc : s.ctl = x :: rest) (hx : x.startsSend = false) (hrun : RunInv t)
    (hruns : x.Runs { s with ctl := rest } t) : DesyncInv t := by
  have hfed : ctlFed (x :: rest) = true := hc ▸ h.fed
  cases hruns with
  | calls ts hctl hbecomes hrec =>
    obtain ⟨y, -, hy, -, hafresh, -⟩ := becomes_iff.mp hbecomes
    exact {
      run := hrun
      fed := hctl ▸ ctlFed_becomes hfed hx hbecomes
      raised := failureRaised_of_startsAfresh (by rw [hctl, List.head?_append, hy]; rfl) hafresh
      desync := fun hs => .inl (hrec hs) }
  | ends hctl hstatus hrec => exact {
      run := hrun
      fed := hctl ▸ ctlFed_tail hfed
      raised := failureRaised_of_ends hfed hx hctl hstatus
      desync := fun hs => .inl (hrec hs) }

/-- R220: so does a step that leaves what the invariant speaks of alone, or records an error. -/
theorem DesyncInv.of_same (h : DesyncInv s) (hrun : RunInv t) (hctl : t.ctl = s.ctl) (hret : t.ret = s.ret)
    (hphase : t.txPhase = s.txPhase) (hsess : t.sess = s.sess) (herr : s.err ≠ 0 → t.err ≠ 0) : DesyncInv t where
  run := hrun
  fed := hctl ▸ h.fed
  raised := by
    obtain ⟨hawaits, hsend⟩ := h.raised
    refine ⟨fun c rest hc hawait hfail => ?_, fun rest hc hoff hfail => ?_⟩
    · exact herr (hawaits c rest (hctl ▸ hc) hawait (hret ▸ hfail))
    · exact herr (hsend rest (hctl ▸ hc) (hphase ▸ hoff) (hret ▸ hfail))
  desync := fun hs => by
    rw [hctl]
    exact (h.desync (hsess ▸ hs)).imp herr id

/-- R220: the gap is before the bring-up alone. -/
theorem DesyncInv.errorRecorded (h : DesyncInv s) (htop : s.ctl.head? ≠ some (.op .bringUp)) : ErrorRecorded s :=
  fun hs => (h.desync hs).resolve_right htop

end Runs

/-! ## The operations of the loop context -/

section RunsOfOperations

variable {s t : State}

theorem eq_of_desyncIfRunning {x : Sess} (h : desyncIfRunning x = .desync) :
    x = .streaming ∨ x = .remotePolling ∨ x = .desync := by
  cases x <;> simp [desyncIfRunning] at h ⊢

/-- R281: an iteration that desynchronises a running session has found an error recorded. -/
theorem errorRecorded_mlIterBegin (hrec : ErrorRecorded s) (h : exec .mlIterBegin s = .next t) : ErrorRecorded t := by
  cases h
  split
  case isFalse => exact hrec
  case isTrue hmust =>
    intro hdesync
    change s.err ≠ 0
    rcases eq_of_desyncIfRunning hdesync with hs | hs | hs
    · simpa [State.mustRecover, State.linkErrorFlag, hs] using hmust
    · simpa [State.mustRecover, State.linkErrorFlag, hs] using hmust
    · exact hrec hs

/-- R135, R180 to R287: what each operation that the loop context's procedures call leaves in its place. -/
theorem runs_exec {i : Instr} (hi : Instr.ofLoop i = true) (hrec : i ≠ .bringUp → ErrorRecorded s)
    (h : exec i s = .next t) : (Task.op i).Runs s t := by
  by_cases hup : i = .bringUp
  · subst hup
    cases h
    exact .calls _ rfl rfl nofun
  replace hrec := hrec hup
  cases i
  -- the operations that end in `ok` or `fail`
  case bringUp => exact absurd rfl hup
  case txSend b =>
    obtain ⟨-, rfl⟩ := next_of_enabled h
    exact .call hrec rfl
  case sendCmd | ssReset | ssMode => cases h; exact .call hrec rfl
  case ssRate => cases h; split <;> [exact .returning hrec nofun; exact .call hrec rfl]
  case ssPing k =>
    obtain ⟨b, rfl⟩ := sendPing_next h
    exact .call hrec rfl
  case ssEnable => cases h; split <;> [exact .call hrec rfl; exact .returning hrec nofun]
  case mlHeartbeat => cases h; split <;> [exact .calls _ rfl rfl hrec; exact .returning hrec nofun]
  -- those that call others
  case mbWait | processReport => cases h; exact .call hrec rfl
  case getReport => cases h; split <;> exact .calls _ rfl rfl hrec
  -- those that are over in one step
  case mlIterBegin =>
    have hrec' := errorRecorded_mlIterBegin hrec h
    cases h
    exact .ends (by split <;> rfl) nofun hrec'
  case mlCheck =>
    cases h
    split <;> [exact .fails rfl (code_ne .overflow); exact .returning hrec nofun]
  case xdDecode =>
    cases h
    obtain ⟨m, r, v, heq⟩ := xdDecode_eq s
    rw [heq]
    exact .ends rfl nofun hrec
  case rtTranslate =>
    obtain ⟨-, rfl⟩ := next_of_enabled h
    exact .returning hrec nofun
  case rtEdges => cases h; exact .ends rfl nofun hrec
  case seStep btn dx dy =>
    cases h
    split
    · obtain ⟨a, es, heq⟩ := scrollHeld_eq s dy
      rw [heq]
      exact .ends rfl nofun hrec
    · obtain ⟨es, heq⟩ := scrollFree_eq s dx dy
      rw [heq]
      exact .ends rfl nofun hrec
  case itRealEvent | itStep => cases h; split <;> exact .ends rfl nofun hrec
  all_goals cases hi

end RunsOfOperations

/-! ## The return points of the loop context -/

section RunsOfReturnPoints

variable {s t : State}

/-- R284: the status bytes to come, or `ok`. -/
theorem runs_callStatusBytes {c : Cont} (hrec : ErrorRecorded s) (n : Nat) :
    (Task.k c).Runs s (s.callStatusBytes n) := by
  cases n with
  | zero => exact .returning hrec nofun
  | succ left => exact .call hrec (by cases c <;> rfl)

/-- R220: a bring-up that completes leaves a running session. -/
theorem sessionOfMode_ne_desync (m : Mode) : sessionOfMode m ≠ .desync := by cases m <;> decide

/-- R210: the bring-up goes on with its next step, or is over with `ok`. -/
theorem runs_bringUpAdvance (hrec : ErrorRecorded s) : (Task.k .bringUpNext).Runs s s.bringUpAdvance := by
  unfold State.bringUpAdvance
  split
  case h_1 => exact .calls _ rfl rfl nofun
  case h_2 | h_3 => exact .calls _ rfl rfl hrec
  case h_4 => split <;> exact .calls _ rfl rfl hrec
  all_goals exact .ends rfl nofun fun hdesync => absurd hdesync (sessionOfMode_ne_desync _)

/-- R203 to R287: what each return point leaves in its place, if a failure it acts on has been recorded. -/
theorem runs_resume {c : Cont} (hrec : ErrorRecorded s)
    (hfail : c.awaitsStatus = true → ¬ s.ret.isOk = true → s.err ≠ 0) : (Task.k c).Runs s (s.resume c) := by
  cases c <;> simp only [State.resume]
  -- those that act on `ok` or `fail`
  case cmdSent => unfold resumeCmdSent; split <;> [exact .call hrec rfl; exact .fails rfl (hfail rfl ‹_›)]
  case resetBat =>
    unfold resumeResetBat
    split
    · exact .calls [_, _, _] rfl rfl hrec
    · exact .fails rfl (hfail rfl ‹_›)
  case resetId => unfold resumeResetId; split <;> [exact .call hrec rfl; exact .fails rfl (hfail rfl ‹_›)]
  case rateArg => unfold resumeRateArg; split <;> [exact .call hrec rfl; exact .fails rfl (hfail rfl ‹_›)]
  case bringUpNext =>
    unfold resumeBringUpNext
    split <;> [exact runs_bringUpAdvance hrec; exact .fails rfl (hfail rfl ‹_›)]
  case hbRequested =>
    unfold resumeHbRequested
    split <;> [exact runs_callStatusBytes hrec _; exact .fails rfl (hfail rfl ‹_›)]
  case repRequested => unfold resumeRepRequested; split <;> [exact .call hrec rfl; exact .fails rfl (hfail rfl ‹_›)]
  -- those that act on a byte, or find that none has come
  case mbPoll => unfold resumeMbPoll; split <;> [exact .calls _ rfl rfl hrec; exact .ends rfl nofun hrec]
  case hsReply => unfold resumeHsReply; split <;> [exact .returning hrec nofun; exact .fails rfl (code_ne .hsTimeout)]
  case hbByte =>
    unfold resumeHbByte
    split <;> [exact runs_callStatusBytes hrec _; exact .fails rfl (code_ne .reportTimeout)]
  case repByte =>
    unfold resumeRepByte
    split
    · unfold State.storeReportByte
      split <;> [exact .calls [_, _] rfl rfl hrec; exact .ends rfl nofun hrec]
    · split <;> [exact .fails rfl (code_ne .reportTimeout); exact .returning hrec nofun]
  -- those that go on in any case
  case prDecoded => unfold resumePrDecoded; split <;> [exact .ends rfl nofun hrec; exact .call hrec rfl]
  case prChecked => unfold resumePrChecked; split <;> [exact .ends rfl nofun hrec; exact .call hrec rfl]
  case prTranslated =>
    unfold resumePrTranslated
    split
    case h_1 => exact .call hrec rfl
    all_goals exact .ends rfl nofun hrec
  case liBegun => unfold resumeLiBegun; split <;> exact .call hrec rfl
  case liBeat => unfold resumeLiBeat; split <;> exact .call hrec rfl
  case liGot => unfold resumeLiGot; split <;> exact .call hrec rfl
  case prScrolled | prEdged => exact .call hrec rfl
  case liRecovered => exact .calls _ rfl rfl hrec
  case busStopDat => exact .ends rfl nofun hrec

end RunsOfReturnPoints

/-! ## A send in progress -/

/-- What a step of a send does: it stays on top of the control stack, and where it ends in `fail` an error is
recorded. -/
structure SendStep (s t : State) : Prop where
  ctl : t.ctl = s.ctl
  sess : t.sess = s.sess
  err : s.err ≠ 0 → t.err ≠ 0
  status : t.txPhase = .off → t.ret.isOk = false → t.err ≠ 0

section SendSteps

variable {s t u : State}

/-- R183, R191: a wait that ends at its deadline records E_TX_TIMEOUT. -/
theorem SendStep.txWait (hon : s.txPhase ≠ .off) (c : Bool) (h : SendStep s u) : SendStep s (s.txWait c u) := by
  rcases txWait_cases s u c with ⟨-, heq⟩ | ⟨-, -, heq⟩ | ⟨-, -, heq⟩ <;> rw [heq]
  · exact h
  · exact ⟨rfl, rfl, fun _ => code_ne .txTimeout, fun _ _ => code_ne .txTimeout⟩
  · exact ⟨rfl, rfl, id, fun hoff => absurd hoff hon⟩

theorem sendStep_txNextBit (s : State) : SendStep s s.txNextBit := by
  unfold State.txNextBit
  split <;> exact ⟨rfl, rfl, id, nofun⟩

theorem SendStep.inPhase {p : TxPhase} (h : s.inPhase p u = .next t) (hu : SendStep s u) : SendStep s t := by
  obtain ⟨-, rfl⟩ := inPhase_next h
  exact hu

/-- R182 to R190: the operation the phase of a send names. -/
theorem sendStep_exec {i : Instr} (hi : s.txPhase.instr = some i) (h : exec i s = .next t) : SendStep s t := by
  have hon : s.txPhase ≠ .off := fun hoff => by rw [instr_eq_none.mpr hoff] at hi; cases hi
  cases hp : s.txPhase <;> rw [hp] at hi <;> cases hi
  case req1 | req2 | req3 | bitSet => exact .inPhase h ⟨rfl, rfl, id, nofun⟩
  case waitDev | bitHi => exact .inPhase h (.txWait hon _ ⟨rfl, rfl, id, nofun⟩)
  case bitLo => exact .inPhase h (.txWait hon _ (sendStep_txNextBit s))
  case stop =>
    refine .inPhase h ⟨rfl, rfl, id, fun hoff => ?_⟩
    change (if s.par.txAckWaitLow then TxPhase.ackLow else .waitAck) = .off at hoff
    split at hoff <;> cases hoff
  case ackLow =>
    rw [exec_txWaitAck_ackLow hp] at h
    exact .inPhase h (.txWait hon _ ⟨rfl, rfl, id, nofun⟩)
  case waitAck =>
    rw [exec_txWaitAck hp] at h
    exact .inPhase h (.txWait hon _ ⟨rfl, rfl, id, nofun⟩)
  case done => exact .inPhase h ⟨rfl, rfl, id, nofun⟩

end SendSteps

/-! ## Every agent -/

section DesyncOfSteps

variable {s t : State} {rest : List Task}

/-- R181: TX_START under its tx_send. -/
theorem DesyncInv.txStart (h : DesyncInv s) {b : Byte} (hc : s.ctl = .op (.txStart b) :: rest)
    (hrun : RunInv t) (ht : t = State.txStart b { s with ctl := rest }) (htop : rest.head? = some .txRun) :
    DesyncInv t := by
  subst ht
  exact {
    run := hrun
    fed := ctlFed_tail (hc ▸ h.fed)
    raised := ⟨fun c _ (hk : rest = _) => by simp [hk] at htop, nofun⟩
    desync := fun hs => .inl (h.errorRecorded (by simp [hc]) hs) }

/-- R280, R290: ML_RECOVER clears `err` with the bring-up right after it. -/
theorem DesyncInv.mlRecover (h : DesyncInv s) (hc : s.ctl = .op .mlRecover :: rest) (hrun : RunInv t)
    (ht : t = State.takeRecovery { s with ctl := rest }) (htop : rest.head? = some (.op .bringUp)) : DesyncInv t := by
  subst ht
  exact {
    run := hrun
    fed := ctlFed_tail (hc ▸ h.fed)
    raised := failureRaised_of_startsAfresh htop rfl
    desync := fun _ => .inr htop }

theorem ctlOk_mlRecover (h : ctlOk (.op .mlRecover :: rest) = true) : rest.head? = some (.op .bringUp) := by
  unfold ctlOk at h
  split at h
  all_goals rename_i e; cases e
  · rfl
  · simp [Instr.ofLoop] at h

/-- R180: a step of the send that tx_send runs. -/
theorem DesyncInv.txRun (h : DesyncInv s) (hc : s.ctl = .txRun :: rest) (hrun : RunInv t) (hstep : SendStep s t) :
    DesyncInv t where
  run := hrun
  fed := hstep.ctl ▸ h.fed
  raised := ⟨fun c _ hk => by simp [hstep.ctl, hc] at hk, fun _ _ => hstep.status⟩
  desync := fun hs => .inl (hstep.err (h.errorRecorded (by simp [hc]) (hstep.sess ▸ hs)))

theorem startsSend_of_ofLoop {i : Instr} (hi : Instr.ofLoop i = true) : (Task.op i).startsSend = false := by
  cases i
  case txStart => cases hi
  all_goals rfl

/-- Log 7: an operation on top of the control stack. -/
theorem DesyncInv.opStep (h : DesyncInv s) {i : Instr} (hc : s.ctl = .op i :: rest) (hrun : RunInv t)
    (he : exec i { s with ctl := rest } = .next t) : DesyncInv t := by
  have hctl : ctlOk (.op i :: rest) = true := hc ▸ h.run.ctl
  rcases ctlOk_op_cases hctl with ⟨b, rfl, htop⟩ | rfl | hi
  · obtain ⟨-, rfl⟩ := next_of_enabled he
    exact h.txStart hc hrun rfl htop
  · cases he
    exact h.mlRecover hc hrun rfl (ctlOk_mlRecover hctl)
  · exact h.of_runs hc (startsSend_of_ofLoop hi) hrun
      (runs_exec hi (fun hup => h.errorRecorded (by simp [hc, hup])) he)

/-- Log 7: the step of the loop context, by what stands on top of its control stack. -/
theorem DesyncInv.loopStep (h : DesyncInv s) (hrun : RunInv t) (hs : s.loopStep = .next t) : DesyncInv t := by
  match hc : s.ctl with
  | [] =>
    cases (loopStep_nil hc).symm.trans hs
    have hctl : (s.call [.op .mlIterBegin, .k .liBegun]).ctl = [.op .mlIterBegin, .k .liBegun] := by simp [hc]
    exact {
      run := hrun
      fed := by rw [hctl]; rfl
      raised := failureRaised_of_startsAfresh rfl rfl
      desync := fun hd => .inl (h.errorRecorded (by simp [hc]) hd) }
  | .op i :: rest => exact h.opStep hc hrun (loopStep_op hc ▸ hs)
  | .txRun :: rest =>
    cases hi : s.txPhase.instr with
    | some i => exact h.txRun hc hrun (sendStep_exec hi (loopStep_txRun hc hi ▸ hs))
    | none =>
      have hoff := instr_eq_none.mp hi
      cases (loopStep_txRun_off hc hoff).symm.trans hs
      exact h.of_runs hc rfl hrun
        (.ends rfl (fun _ => h.raised.2 rest hc hoff) (h.errorRecorded (by simp [hc])))
  | .k c :: rest =>
    cases (loopStep_k hc).symm.trans hs
    refine h.of_runs hc rfl hrun (runs_resume (h.errorRecorded (by simp [hc])) fun hawait hfail => ?_)
    exact h.raised.1 c rest hc hawait (Bool.eq_false_iff.mpr hfail)

/-- R20, R320: whoever moves; serving an edge clears no error. -/
theorem DesyncInv.makeMove (h : DesyncInv s) {m : Move} (hrun : RunInv t) (hm : s.makeMove m = .next t) :
    DesyncInv t := by
  cases m with
  | loop => exact h.loopStep hrun hm
  | isr =>
    rcases isrStep_cases hm with ⟨-, rfl⟩ | rfl
    · obtain ⟨p, a, r, m, e, heq, -, herr⟩ := rxEdge_eq s
      rw [heq] at hrun ⊢
      refine h.of_same hrun rfl rfl rfl rfl fun hset => ?_
      rcases herr with rfl | ⟨c, rfl⟩ <;> [exact hset; exact code_ne c]
    · exact h
  | devClk x | devDat x | clock d | hostSwap v | hostJiggle v | hostScroll v | hostSuspended v =>
    cases hm
    exact h.of_same hrun rfl rfl rfl rfl id

end DesyncOfSteps

/-- Settles O9: the step is a move of one agent; the loop context's replaces what stands on top of its control stack,
and every failure it leaves there for another to act on has an error recorded. -/
theorem desyncKept : Obligations.DesyncKept := by
  intro s t h hstep
  rw [step_of_noSlot h.run.noSlot] at hstep
  obtain ⟨u, hu, hrun⟩ := h.run.moveTaken.makeMove s.nextMove
  cases hu.symm.trans hstep
  have hmoved : DesyncInv s.moveTaken := h.of_same h.run.moveTaken rfl rfl rfl rfl id
  exact hmoved.makeMove hrun hstep

/-! ## The steps of the bring-up -/

section BringUpReturns

variable {s : State} {rest : List Task} {r : Byte}

/-- R212: with no sample rate configured SS_RATE sends nothing. -/
theorem exec_ssRate_none (h : s.par.sampleRate = none) : exec .ssRate s = .next { s with ret := .status true } := by
  change execSsRate s = _
  rw [execSsRate, h]
  rfl

theorem exec_ssRate_some (h : s.par.sampleRate = some r) : exec .ssRate s = .next { s with
    ctl := .op (.sendCmd s.par.cmdSetRate s.par.tAck) :: .k (.rateArg r) :: s.ctl } := by
  change execSsRate s = _
  rw [execSsRate, h]
  rfl

/-- R212: the command acknowledged, its argument is sent. -/
theorem loopStep_rateArg_ok (hctl : s.ctl = .k (.rateArg r) :: rest) (hret : s.ret.isOk = true) :
    s.loopStep = .next { s with ctl := .op (.sendCmd r s.par.tAck) :: rest } :=
  (loopStep_k hctl).trans (congrArg _ (if_pos hret))

theorem loopStep_rateArg_fail (hctl : s.ctl = .k (.rateArg r) :: rest) (hret : s.ret.isOk = false) :
    s.loopStep = .next { s with ret := .status false, ctl := rest } :=
  (loopStep_k hctl).trans (congrArg _ (if_neg (by simp [hret])))

/-- R213: the byte of SS_MODE is that of the mode. -/
theorem exec_ssMode (s : State) : exec .ssMode s = .next { s with
    ctl := .op (.sendCmd (modeByte s.par) s.par.tAck) :: s.ctl } := rfl

/-- R214: inside the table SS_PING sends the byte there. -/
theorem exec_ssPing {i : Nat} {b : Byte} (hi : i < 17) (hb : s.par.ping[i]? = some b) :
    exec (.ssPing i) s = .next { s with ctl := .op (.sendCmd b s.par.tAck) :: s.ctl } :=
  sendPing_eq ((pingRead_eq_getElem? s.par hi).trans hb)

/-- R215: only in Streaming mode there is something to enable. -/
theorem exec_ssEnable_stream (h : s.par.mode = .stream) : exec .ssEnable s = .next { s with
    ctl := .op (.sendCmd s.par.cmdEnable s.par.tAck) :: s.ctl } := by
  change execSsEnable s = _
  rw [execSsEnable, h]
  rfl

theorem exec_ssEnable_remote (h : s.par.mode = .remote) :
    exec .ssEnable s = .next { s with ret := .status true } := by
  change execSsEnable s = _
  rw [execSsEnable, h]
  rfl

/-- R210, R223: a step that fails abandons the bring-up. -/
theorem loopStep_bringUpNext_fail (hctl : s.ctl = .k .bringUpNext :: rest) (hret : s.ret.isOk = false) :
    s.loopStep = .next { s with sess := .desync, ret := .status false, ctl := rest } :=
  (loopStep_k hctl).trans (congrArg _ (if_neg (by simp [hret])))

/-- R210: after one that succeeds the bring-up goes on from its position. -/
theorem loopStep_bringUpNext_ok (hctl : s.ctl = .k .bringUpNext :: rest) (hret : s.ret.isOk = true) :
    s.loopStep = .next (State.bringUpAdvance { s with ctl := rest }) :=
  (loopStep_k hctl).trans (congrArg _ (if_pos hret))

/-! The positions of the bring-up, one after another (R210). -/

theorem bringUpAdvance_reset (h : s.ssStep = .reset) : s.bringUpAdvance = { s with
    sess := .negotiating, ssStep := .rate, ctl := .op .ssRate :: .k .bringUpNext :: s.ctl } := by
  rw [State.bringUpAdvance, h]
  rfl

theorem bringUpAdvance_rate (h : s.ssStep = .rate) : s.bringUpAdvance = { s with
    ssStep := .mode, ctl := .op .ssMode :: .k .bringUpNext :: s.ctl } := by
  rw [State.bringUpAdvance, h]
  rfl

theorem bringUpAdvance_mode (h : s.ssStep = .mode) : s.bringUpAdvance = { s with
    ssStep := .ping 0, ctl := .op (.ssPing 0) :: .k .bringUpNext :: s.ctl } := by
  rw [State.bringUpAdvance, h]
  rfl

theorem bringUpAdvance_ping_next {i : Fin 17} (h : s.ssStep = .ping i) (hi : i.val < 16) :
    s.bringUpAdvance = { s with
      ssStep := .ping (i + 1), ctl := .op (.ssPing (i.val + 1)) :: .k .bringUpNext :: s.ctl } := by
  have hnot : i ≠ 16 := fun hlast => absurd hi (by simp [hlast])
  rw [State.bringUpAdvance, h]
  exact if_neg hnot

theorem bringUpAdvance_ping_last (h : s.ssStep = .ping 16) : s.bringUpAdvance = { s with
    ssStep := .enable, ctl := .op .ssEnable :: .k .bringUpNext :: s.ctl } := by
  rw [State.bringUpAdvance, h]
  rfl

theorem bringUpAdvance_enable (h : s.ssStep = .enable) : s.bringUpAdvance = { s with
    ssStep := .done, sess := sessionOfMode s.par.mode, tHb := s.now, ret := .status true } := by
  rw [State.bringUpAdvance, h]
  rfl

end BringUpReturns

/-- Settles O36: the parameters pick the case of each step, the value in `ret` that of SS_RATE's return point. -/
theorem bringUpSteps : Obligations.BringUpSteps := by
  intro s
  refine ⟨rfl, rfl, exec_ssRate_none, fun _ => exec_ssRate_some, fun r v rest hctl hret => ?_,
    fun r rest hctl hret => ?_, fun hmode => ?_, fun hmode => ?_, fun _ _ => exec_ssPing, exec_ssEnable_stream,
    exec_ssEnable_remote⟩
  · exact loopStep_rateArg_ok hctl (by rw [hret]; rfl)
  · exact loopStep_rateArg_fail hctl (by rw [hret]; rfl)
  all_goals rw [exec_ssMode, modeByte, hmode]

/-- Settles O38: the value in `ret` picks the case, the position the next step. -/
theorem bringUpAbandoned : Obligations.BringUpAbandoned := by
  intro rest s hctl
  refine ⟨fun hret => loopStep_bringUpNext_fail hctl ?_, fun hret => ?_⟩
  · rcases hret with hret | hret <;> rw [hret] <;> rfl
  have hok : s.ret.isOk = true := by rcases hret with hret | ⟨v, hret⟩ <;> rw [hret] <;> rfl
  rw [loopStep_bringUpNext_ok hctl hok]
  exact ⟨fun h => congrArg _ (bringUpAdvance_reset h), fun h => congrArg _ (bringUpAdvance_rate h),
    fun h => congrArg _ (bringUpAdvance_mode h), fun i h hi => congrArg _ (bringUpAdvance_ping_next h hi),
    fun h => congrArg _ (bringUpAdvance_ping_last h), fun h => congrArg _ (bringUpAdvance_enable h)⟩

end Sys2Proof.Machine

/-! PROOFS. The statements of spec/44_extended_decoder.md: XD_DECODE (O41), and the Reports whose processing ends
without an event (O60). -/

namespace Sys2Proof.Machine

open Sys2Proof Sys2Proof.Config

/-! ## The decoder -/

section Decoder

variable {s : State}

/-- R231: the decoder passes a motion Report on. -/
theorem exec_xdDecode_motion (hext : isExt s.par s.rep = false) :
    exec .xdDecode s = .next { s with ret := .decoded false } :=
  congrArg Host.Outcome.next (if_neg (by simp [hext]))

/-- R231: what is done to the auxiliary buttons depends on the subtype, the result does not. -/
theorem exec_xdDecode_ext (hext : isExt s.par s.rep = true) : exec .xdDecode s = .next { s with
    auxScr := if isAuxbtn s.par s.rep then bit s.rep.b2 s.par.auxScrBit.val else s.auxScr,
    auxMid := if isAuxbtn s.par s.rep then bit s.rep.b2 s.par.auxMidBit.val else s.auxMid,
    ret := .decoded true } := by
  have hdecode : exec .xdDecode s = _ := congrArg Host.Outcome.next (if_pos hext)
  rw [hdecode]
  split <;> rfl

end Decoder

/-- Settles O41: an extended packet's two cases are those of the subtype. -/
theorem extendedDecode : Obligations.ExtendedDecode := by
  refine fun s => ⟨exec_xdDecode_motion, fun hext haux => ?_, fun hext haux => ?_⟩
  all_goals simp [exec_xdDecode_ext hext, haux]

/-! ## The processing of a Report, as far as the check -/

section ProcessReport

variable {s : State} {rest : List Task}

/-- R287: the processing of a Report begins with the decoder. -/
theorem loopStep_processReport (hctl : s.ctl = .op .processReport :: rest) :
    s.loopStep = .next { s with ctl := .op .xdDecode :: .k .prDecoded :: rest } := loopStep_op hctl

/-- R231, R287: the decoder on an extended packet, as a move. -/
theorem loopStep_xdDecode_ext (hctl : s.ctl = .op .xdDecode :: rest) (hext : isExt s.par s.rep = true) :
    s.loopStep = .next { s with
      auxScr := if isAuxbtn s.par s.rep then bit s.rep.b2 s.par.auxScrBit.val else s.auxScr,
      auxMid := if isAuxbtn s.par s.rep then bit s.rep.b2 s.par.auxMidBit.val else s.auxMid,
      ret := .decoded true, ctl := rest } := (loopStep_op hctl).trans (exec_xdDecode_ext hext)

/-- R231, R287: the decoder on a motion Report, as a move. -/
theorem loopStep_xdDecode_motion (hctl : s.ctl = .op .xdDecode :: rest) (hext : isExt s.par s.rep = false) :
    s.loopStep = .next { s with ret := .decoded false, ctl := rest } :=
  (loopStep_op hctl).trans (exec_xdDecode_motion hext)

/-- R233: an extended packet goes no further. -/
theorem loopStep_prDecoded_handled (hctl : s.ctl = .k .prDecoded :: rest) (hret : s.ret = .decoded true) :
    s.loopStep = .next { s with ctl := rest } :=
  (loopStep_k hctl).trans (congrArg _ (if_pos (by simp [hret, Ret.isHandled])))

/-- R287: a motion Report goes on to the check. -/
theorem loopStep_prDecoded_motion (hctl : s.ctl = .k .prDecoded :: rest) (hret : s.ret = .decoded false) :
    s.loopStep = .next { s with ctl := .op .mlCheck :: .k .prChecked :: rest } :=
  (loopStep_k hctl).trans (congrArg _ (if_neg (by simp [hret, Ret.isHandled])))

/-- R288: a Report with an overflow bit desynchronises the session. -/
theorem exec_mlCheck_overflow (hovf : s.rep.b0 &&& s.par.ovfMask ≠ 0) :
    exec .mlCheck s = .next { s with err := 0x07, sess := .desync, ret := .checked true } :=
  congrArg Host.Outcome.next (if_pos (by simpa [overflowFlag] using hovf))

/-- R287, R288: a Report with an overflow bit goes no further. -/
theorem loopStep_prChecked_overflow (hctl : s.ctl = .k .prChecked :: rest) (hret : s.ret = .checked true) :
    s.loopStep = .next { s with ctl := rest } :=
  (loopStep_k hctl).trans (congrArg _ (if_pos (by simp [hret, Ret.isOverflow])))

/-- R230, R233: an extended packet is processed in three moves, whatever its overflow bits (R351). -/
theorem runMoves_processReport_ext (hslot : s.slot = none) (hctl : s.ctl = .op .processReport :: rest)
    (hext : isExt s.par s.rep = true) : runMoves [.loop, .loop, .loop] s = .next { s with
      auxScr := if isAuxbtn s.par s.rep then bit s.rep.b2 s.par.auxScrBit.val else s.auxScr,
      auxMid := if isAuxbtn s.par s.rep then bit s.rep.b2 s.par.auxMidBit.val else s.auxMid,
      ret := .decoded true, ctl := rest } := by
  rw [runMoves_loop_cons hslot (loopStep_processReport hctl)]
  refine Eq.trans (runMoves_loop_cons hslot (loopStep_xdDecode_ext rfl hext)) ?_
  exact runMoves_loop_cons hslot (loopStep_prDecoded_handled rfl rfl)

/-- R287: a motion Report stands before the check after three moves. -/
theorem runMoves_processReport_motion (hslot : s.slot = none) (hctl : s.ctl = .op .processReport :: rest)
    (hext : isExt s.par s.rep = false) : runMoves [.loop, .loop, .loop] s = .next { s with
      ret := .decoded false, ctl := .op .mlCheck :: .k .prChecked :: rest } := by
  rw [runMoves_loop_cons hslot (loopStep_processReport hctl)]
  refine Eq.trans (runMoves_loop_cons hslot (loopStep_xdDecode_motion rfl hext)) ?_
  exact runMoves_loop_cons hslot (loopStep_prDecoded_motion rfl rfl)

/-- R288: from the check a Report with an overflow bit is over in two moves. -/
theorem runMoves_mlCheck_overflow (hslot : s.slot = none) (hctl : s.ctl = .op .mlCheck :: .k .prChecked :: rest)
    (hovf : s.rep.b0 &&& s.par.ovfMask ≠ 0) : runMoves [.loop, .loop] s = .next { s with
      err := 0x07, sess := .desync, ret := .checked true, ctl := rest } := by
  rw [runMoves_loop_cons hslot ((loopStep_op hctl).trans (exec_mlCheck_overflow hovf))]
  exact runMoves_loop_cons hslot (loopStep_prChecked_overflow rfl rfl)

end ProcessReport

/-- Settles O60: the decoder's answer decides before the check is reached. -/
theorem reportSuppressed : Obligations.ReportSuppressed := by
  intro rest s hslot hctl
  refine ⟨runMoves_processReport_ext hslot hctl, fun hext hovf => ?_⟩
  exact (runMoves_append (ns := [.loop, .loop]) (runMoves_processReport_motion hslot hctl hext)).trans
    (runMoves_mlCheck_overflow hslot rfl hovf)

end Sys2Proof.Machine

/-! PROOFS. The statements of spec/45_report_translator.md: RT_TRANSLATE (O43), its mapping under the swap (O44),
RT_EDGES (O45), and the whole processing of a motion Report (O59). -/

namespace Sys2Proof.Machine

open Sys2Proof Sys2Proof.Config

/-! ## The translation -/

section Translation

variable {s : State}

/-- R240, R241, R243: the translation of the Report in `rep`, when no two masks overlap. -/
theorem exec_rtTranslate (hmasks : s.par.buttonMasksDisjoint = true) : exec .rtTranslate s = .next { s with
    ret := .translated s.translatedButtons (deltaX s.rep) (deltaY s.rep) } := if_pos hmasks

/-- R241: without the swap left is left, and the middle takes the auxiliary middle bit. -/
theorem translatedButtons_of_noSwap (hswap : s.cfgSwap = false) : s.translatedButtons =
    ⟨primaryL s.par s.rep, primaryR s.par s.rep, primaryM s.par s.rep || s.auxMid, s.auxScr⟩ := by
  rw [State.translatedButtons, hswap]
  rfl

/-- R241: the swap exchanges left with right and the auxiliary middle bit with the scroll bit. -/
theorem translatedButtons_of_swap (hswap : s.cfgSwap = true) : s.translatedButtons =
    ⟨primaryR s.par s.rep, primaryL s.par s.rep, primaryM s.par s.rep || s.auxScr, s.auxMid⟩ := by
  rw [State.translatedButtons, hswap]
  rfl

end Translation

/-- Settles O43: the setting of the swap picks the logical set. -/
theorem translate : Obligations.Translate := by
  intro s hmasks
  refine ⟨fun hswap => ?_, fun hswap => ?_⟩
  · rw [exec_rtTranslate hmasks, translatedButtons_of_noSwap hswap]
    rfl
  · rw [exec_rtTranslate hmasks, translatedButtons_of_swap hswap]
    rfl

/-- R247: the mapping with the swap is the one without it, of the exchanged bits. -/
theorem logicalButtons_swap (pL pR pM auxMid auxScr : Bool) :
    logicalButtons true pL pR pM auxMid auxScr = logicalButtons false pR pL pM auxScr auxMid := rfl

/-- Settles O44: the bits exchanged twice are the bits. -/
theorem swapInvolution : Obligations.SwapInvolution := fun pL pR pM auxMid auxScr =>
  ⟨rfl, rfl, logicalButtons_swap pL pR pM auxMid auxScr, logicalButtons_swap pR pL pM auxScr auxMid⟩

/-! ## The button events -/

section ButtonEvents

/-- R246: a changed button has the one event of its new position. -/
theorem edgeEvent_eq (b : Btn) (prev cur : Bool) :
    edgeEvent b prev cur = if cur = prev then [] else [if cur then .press b else .release b] := by
  unfold edgeEvent
  cases prev <;> cases cur <;> rfl

/-- R246: the same set again has no event. -/
@[simp] theorem edgeEvents_self (btn : Buttons) : edgeEvents btn btn = [] := by simp [edgeEvents, edgeEvent]

theorem exec_rtEdges (vis : Buttons) (s : State) : exec (.rtEdges vis) s = .next { s with
    hostOut := s.hostOut ++ edgeEvents s.btnPrev vis, btnPrev := vis,
    ret := .flag (decide (vis ≠ s.btnPrev)) } := rfl

end ButtonEvents

/-- Settles O45: the events are those of the four buttons, one after another. -/
theorem buttonEdges : Obligations.ButtonEdges := by
  refine fun vis s => ⟨?_, fun hsame => ?_⟩
  · simp only [exec_rtEdges, edgeEvents, edgeEvent_eq]
  · subst hsame
    simp [exec_rtEdges]

/-! ## SE_STEP inside a procedure -/

section ScrollStep

variable {s u : State} {btn : Buttons} {dx dy dz : Int} {r : Ret} {c : List Task}

/-! What SE_STEP does to the events and the accumulator depends neither on the value last returned nor on the control
stack. -/

theorem emitMove_with_ret_ctl :
    State.emitMove dx dy dz { s with ret := r, ctl := c } = { s.emitMove dx dy dz with ret := r, ctl := c } := by
  unfold State.emitMove
  split <;> rfl

theorem scrollTick_with_ret_ctl {tick : Int} :
    State.scrollTick tick { s with ret := r, ctl := c } = { s.scrollTick tick with ret := r, ctl := c } := by
  unfold State.scrollTick
  split
  · rfl
  · rw [emitMove_with_ret_ctl]

theorem scrollHeld_with_ret_ctl :
    State.scrollHeld dy { s with ret := r, ctl := c } = { s.scrollHeld dy with ret := r, ctl := c } := by
  unfold State.scrollHeld
  split
  · exact scrollTick_with_ret_ctl (s := { s with scrollAcc := s.scrollAcc + dy })
  · exact scrollTick_with_ret_ctl

theorem scrollFree_with_ret_ctl :
    State.scrollFree dx dy { s with ret := r, ctl := c } = { s.scrollFree dx dy with ret := r, ctl := c } := by
  unfold State.scrollFree
  split
  · exact emitMove_with_ret_ctl (s := { s with scrollAcc := 0 })
  · rfl

/-- R262: SE_STEP with the role held, and with it not held. -/
theorem exec_seStep_held (hheld : s.held btn = true) : exec (.seStep btn dx dy) s = .next { s.scrollHeld dy with
    ret := .flag (moves dx dy) } := by
  change execSeStep btn dx dy s = _
  rw [execSeStep, if_pos hheld]
  rfl

theorem exec_seStep_free (hfree : s.held btn = false) : exec (.seStep btn dx dy) s = .next { s.scrollFree dx dy with
    ret := .flag (moves dx dy) } := by
  change execSeStep btn dx dy s = _
  rw [execSeStep, if_neg (by simp [hfree])]
  rfl

/-- R262: wherever a procedure runs SE_STEP, the accumulator and the events are those of SE_STEP on `s`. -/
theorem exec_seStep_with_ret_ctl (hu : exec (.seStep btn dx dy) s = .next u) :
    exec (.seStep btn dx dy) { s with ret := r, ctl := c } = .next { s with
      scrollAcc := u.scrollAcc, hostOut := u.hostOut, ret := .flag (moves dx dy), ctl := c } := by
  cases hheld : s.held btn with
  | true =>
    cases hu.symm.trans (exec_seStep_held hheld)
    obtain ⟨a, es, heq⟩ := scrollHeld_eq s dy
    refine Eq.trans (exec_seStep_held hheld) ?_
    rw [scrollHeld_with_ret_ctl, heq]
  | false =>
    cases hu.symm.trans (exec_seStep_free hheld)
    obtain ⟨es, heq⟩ := scrollFree_eq s dx dy
    refine Eq.trans (exec_seStep_free hheld) ?_
    rw [scrollFree_with_ret_ctl, heq]

/-- R268: a Report moves when a delta is not zero. -/
theorem moves_iff : moves dx dy = true ↔ dx ≠ 0 ∨ dy ≠ 0 := by simp [moves]

/-- R262, R267: with the role not held there is at most one Move, and none while the host is suspended. -/
theorem scrollFree_eq_shown : s.scrollFree dx dy = { s with
    scrollAcc := 0,
    hostOut := s.hostOut ++ if (dx ≠ 0 ∨ dy ≠ 0) ∧ s.hostSuspended = false then [.move dx dy 0] else [] } := by
  unfold State.scrollFree
  split
  next hmoves =>
    rcases emitMove_cases { s with scrollAcc := 0 } dx dy 0 with ⟨hsusp, heq⟩ | ⟨hsusp, heq⟩
    · rw [heq, if_neg fun h => Bool.false_ne_true (h.2.symm.trans hsusp), List.append_nil]
    · rw [heq, if_pos ⟨moves_iff.mp hmoves, hsusp⟩]
  next hstill => rw [if_neg fun h => hstill (moves_iff.mpr h.1), List.append_nil]

/-- R262, R267: with scroll emulation off SE_STEP clears the accumulator and shows at most one Move. -/
theorem exec_seStep_noScroll (hscroll : s.cfgScroll = false) : exec (.seStep btn dx dy) s = .next { s with
    scrollAcc := 0,
    hostOut := s.hostOut ++ if (dx ≠ 0 ∨ dy ≠ 0) ∧ s.hostSuspended = false then [.move dx dy 0] else [],
    ret := .flag (moves dx dy) } := by
  rw [exec_seStep_free (by simp [State.held, hscroll]), scrollFree_eq_shown]

end ScrollStep

/-! ## The processing of a motion Report, from the check on -/

section MotionReport

variable {s u : State} {rest : List Task} {btn : Buttons} {dx dy : Int} {moved : Bool}

/-- R288: a Report without an overflow bit passes the check. -/
theorem exec_mlCheck_ok (hovf : s.rep.b0 &&& s.par.ovfMask = 0) :
    exec .mlCheck s = .next { s with ret := .checked false } :=
  congrArg Host.Outcome.next (if_neg (by simp [overflowFlag, hovf]))

/-- R287: a Report that passes the check goes on to the translation. -/
theorem loopStep_prChecked_ok (hctl : s.ctl = .k .prChecked :: rest) (hret : s.ret = .checked false) :
    s.loopStep = .next { s with ctl := .op .rtTranslate :: .k .prTranslated :: rest } :=
  (loopStep_k hctl).trans (congrArg _ (if_neg (by simp [hret, Ret.isOverflow])))

/-- R287: what has been translated goes on to SE_STEP. -/
theorem loopStep_prTranslated (hctl : s.ctl = .k .prTranslated :: rest) (hret : s.ret = .translated btn dx dy) :
    s.loopStep = .next { s with ctl := .op (.seStep btn dx dy) :: .k (.prScrolled btn) :: rest } := by
  rw [loopStep_k hctl, State.resume, resumePrTranslated, hret]
  rfl

/-- R244, R287: RT_EDGES gets the set shown to the host. -/
theorem loopStep_prScrolled (hctl : s.ctl = .k (.prScrolled btn) :: rest) (hret : s.ret = .flag moved) :
    s.loopStep = .next { s with
      ctl := .op (.rtEdges (shownButtons s.cfgScroll btn)) :: .k (.prEdged moved) :: rest } := by
  rw [loopStep_k hctl, State.resume, resumePrScrolled, hret]
  rfl

/-- R287: a Report is activity when it moved or a button changed. -/
theorem loopStep_prEdged {changed : Bool} (hctl : s.ctl = .k (.prEdged moved) :: rest) (hret : s.ret = .flag changed) :
    s.loopStep = .next { s with ctl := .op (.itRealEvent (moved || changed)) :: rest } := by
  rw [loopStep_k hctl, State.resume, resumePrEdged, hret]
  rfl

/-- R271: activity restarts the timer, the rest leaves it alone. -/
theorem exec_itRealEvent (activity : Bool) (s : State) : exec (.itRealEvent activity) s = .next { s with
    jigN := if activity then 0 else s.jigN, tLast := if activity then s.now else s.tLast } := by
  cases activity <;> rfl

/-- R271, R287: the set shown and the deltas decide whether a Report is activity. -/
theorem activity_eq (vis prev : Buttons) :
    (moves dx dy || decide (vis ≠ prev)) = decide (dx ≠ 0 ∨ dy ≠ 0 ∨ vis ≠ prev) := by
  rw [Bool.eq_iff_iff]
  simp [moves_iff, or_assoc]

/-! Each operation of the processing with the return point that follows it is two moves. -/

/-- Log 7: two moves of the loop context, and the rest of them. -/
theorem runMoves_two_loops {t : State} {n : Nat} (h : runMoves [.loop, .loop] s = .next t) :
    runMoves (List.replicate (n + 2) .loop) s = runMoves (List.replicate n .loop) t :=
  runMoves_append (ms := [.loop, .loop]) h

theorem runMoves_mlCheck_ok (hslot : s.slot = none) (hctl : s.ctl = .op .mlCheck :: .k .prChecked :: rest)
    (hovf : s.rep.b0 &&& s.par.ovfMask = 0) : runMoves [.loop, .loop] s = .next { s with
      ret := .checked false, ctl := .op .rtTranslate :: .k .prTranslated :: rest } := by
  rw [runMoves_loop_cons hslot ((loopStep_op hctl).trans (exec_mlCheck_ok hovf))]
  exact runMoves_loop_cons hslot (loopStep_prChecked_ok rfl rfl)

theorem runMoves_rtTranslate (hslot : s.slot = none) (hctl : s.ctl = .op .rtTranslate :: .k .prTranslated :: rest)
    (hmasks : s.par.buttonMasksDisjoint = true) : runMoves [.loop, .loop] s = .next { s with
      ret := .translated s.translatedButtons (deltaX s.rep) (deltaY s.rep),
      ctl := .op (.seStep s.translatedButtons (deltaX s.rep) (deltaY s.rep)) ::
        .k (.prScrolled s.translatedButtons) :: rest } := by
  rw [runMoves_loop_cons hslot ((loopStep_op hctl).trans (exec_rtTranslate hmasks))]
  exact runMoves_loop_cons hslot (loopStep_prTranslated rfl rfl)

theorem runMoves_seStep {r : Ret} (hslot : s.slot = none) (hu : exec (.seStep btn dx dy) s = .next u) :
    runMoves [.loop, .loop] { s with
      ret := r, ctl := .op (.seStep btn dx dy) :: .k (.prScrolled btn) :: rest } = .next { s with
        scrollAcc := u.scrollAcc, hostOut := u.hostOut, ret := .flag (moves dx dy),
        ctl := .op (.rtEdges (shownButtons s.cfgScroll btn)) :: .k (.prEdged (moves dx dy)) :: rest } := by
  refine Eq.trans (runMoves_loop_cons hslot ((loopStep_op rfl).trans (exec_seStep_with_ret_ctl (s := s) hu))) ?_
  exact runMoves_loop_cons hslot (loopStep_prScrolled rfl rfl)

theorem runMoves_rtEdges {vis : Buttons} (hslot : s.slot = none)
    (hctl : s.ctl = .op (.rtEdges vis) :: .k (.prEdged moved) :: rest) : runMoves [.loop, .loop] s = .next { s with
      hostOut := s.hostOut ++ edgeEvents s.btnPrev vis, btnPrev := vis, ret := .flag (decide (vis ≠ s.btnPrev)),
      ctl := .op (.itRealEvent (moved || decide (vis ≠ s.btnPrev))) :: rest } := by
  rw [runMoves_loop_cons hslot ((loopStep_op hctl).trans (exec_rtEdges vis _))]
  exact runMoves_loop_cons hslot (loopStep_prEdged rfl rfl)

theorem runMoves_itRealEvent {activity : Bool} (hslot : s.slot = none)
    (hctl : s.ctl = .op (.itRealEvent activity) :: rest) : runMoves [.loop] s = .next { s with
      jigN := if activity then 0 else s.jigN, tLast := if activity then s.now else s.tLast, ctl := rest } :=
  runMoves_loop_cons hslot ((loopStep_op hctl).trans (exec_itRealEvent activity _))

/-- R287: the whole processing in twelve moves, under both settings of scroll emulation: SE_STEP on the translated
Report gives `u`, and RT_EDGES compares, shows and stores the set `vis` that the setting leaves visible. -/
theorem runMoves_processReport (hslot : s.slot = none) (hctl : s.ctl = .op .processReport :: rest)
    (hext : isExt s.par s.rep = false) (hovf : s.rep.b0 &&& s.par.ovfMask = 0)
    (hmasks : s.par.buttonMasksDisjoint = true) {vis : Buttons}
    (hvis : shownButtons s.cfgScroll s.translatedButtons = vis)
    (hu : exec (.seStep s.translatedButtons (deltaX s.rep) (deltaY s.rep)) s = .next u) :
    let active := decide (deltaX s.rep ≠ 0 ∨ deltaY s.rep ≠ 0 ∨ vis ≠ s.btnPrev)
    runMoves (List.replicate 12 .loop) s = .next { s with
      scrollAcc := u.scrollAcc, hostOut := u.hostOut ++ edgeEvents s.btnPrev vis, btnPrev := vis,
      jigN := if active then 0 else s.jigN, tLast := if active then s.now else s.tLast,
      ret := .flag (decide (vis ≠ s.btnPrev)), ctl := rest } := by
  intro active
  have hactive : (moves (deltaX s.rep) (deltaY s.rep) || decide (vis ≠ s.btnPrev)) = active := activity_eq ..
  rw [← hactive, ← hvis]
  refine (runMoves_append (ns := List.replicate 9 .loop) (runMoves_processReport_motion hslot hctl hext)).trans ?_
  refine Eq.trans (runMoves_two_loops (runMoves_mlCheck_ok hslot rfl hovf)) ?_
  refine Eq.trans (runMoves_two_loops (runMoves_rtTranslate hslot rfl hmasks)) ?_
  refine Eq.trans (runMoves_two_loops (runMoves_seStep (s := s) hslot hu)) ?_
  refine Eq.trans (runMoves_two_loops (runMoves_rtEdges hslot rfl)) ?_
  exact runMoves_itRealEvent hslot rfl

end MotionReport

/-- R244: without scroll emulation the host is shown the logical set. -/
theorem shownButtons_noScroll (btn : Buttons) : shownButtons false btn = btn := by simp [shownButtons]

/-- R244: with scroll emulation X is released in the set shown. -/
theorem shownButtons_scroll (btn : Buttons) : shownButtons true btn = ⟨btn.l, btn.r, btn.m, false⟩ := by
  simp [shownButtons]

/-- Settles O59: the setting of scroll emulation decides what SE_STEP does and which set is shown. -/
theorem motionProcessed : Obligations.MotionProcessed := by
  intro rest s hslot hctl hext hovf hmasks
  refine ⟨fun hscroll => ?_, fun hscroll => ⟨_, rfl, ?_⟩⟩
  · exact runMoves_processReport hslot hctl hext hovf hmasks (by rw [hscroll, shownButtons_noScroll]; rfl)
      (exec_seStep_noScroll hscroll)
  · exact runMoves_processReport hslot hctl hext hovf hmasks (by rw [hscroll, shownButtons_scroll]; rfl) rfl

end Sys2Proof.Machine

/-! PROOFS. The statements of spec/46_scroll_emulator.md: SE_STEP in its five cases (O46), the bound of the scroll
accumulator (O47) and the sequences of R265 and R266 (O48). -/

namespace Sys2Proof.Machine

open Sys2Proof Sys2Proof.Config

/-! ## Ticks and the role -/

section TicksAndRole

variable {s : State} {btn : Buttons} {dx dy : Int}

/-- R264: below 16 in absolute value the quotient by 8 is 0, 1 or -1. -/
theorem tdiv_scrollDiv_unit {a : Int} (hlow : -15 ≤ a) (hhigh : a ≤ 15) (hne : tdiv a scrollDiv ≠ 0) :
    tdiv a scrollDiv = 1 ∨ tdiv a scrollDiv = -1 := by
  have hquot : a.natAbs / scrollDiv.natAbs = 1 := by
    have hpos : a.natAbs / scrollDiv.natAbs ≠ 0 := fun h => hne (by rw [tdiv, h]; exact mul_zero _)
    have hdiv : scrollDiv.natAbs = 8 := rfl
    rw [hdiv] at hpos ⊢
    omega
  have htick : tdiv a scrollDiv = a.sign := by rw [tdiv, hquot]; exact mul_one _
  rw [htick] at hne ⊢
  rcases Int.sign_trichotomy a with h | h | h
  · exact .inl h
  · exact absurd h hne
  · exact .inr h

/-- R261: the role is held when X is down and scroll emulation is on. -/
theorem held_eq_true (hx : btn.x = true) (hcfg : s.cfgScroll = true) : s.held btn = true := by
  rw [State.held, hx, hcfg, Bool.and_self]

theorem held_eq_false (h : btn.x = false ∨ s.cfgScroll = false) : s.held btn = false := by
  rw [State.held, Bool.and_eq_false_iff]
  exact h

/-- R262: the result of SE_STEP says whether a delta is not zero. -/
theorem moves_eq_decide (dx dy : Int) : moves dx dy = decide (dx ≠ 0 ∨ dy ≠ 0) := by
  rw [Bool.eq_iff_iff, decide_eq_true_iff, moves_iff]

end TicksAndRole

/-! ## The five cases of SE_STEP -/

section ScrollCases

variable {s : State} {btn : Buttons} {dx dy dz tick : Int}

/-- R267: a motion event is the only change, and none goes out while the host is suspended. -/
theorem emitMove_eq_ite : s.emitMove dx dy dz = { s with
    hostOut := if s.hostSuspended then s.hostOut else s.hostOut ++ [.move dx dy dz] } := by
  rcases emitMove_cases s dx dy dz with ⟨hsusp, heq⟩ | ⟨hsusp, heq⟩
  · rw [heq, if_pos hsusp]
  · rw [heq, if_neg (by simp [hsusp])]

/-- R262: a tick that is not zero is shown and clears the accumulator. -/
theorem scrollTick_of_ne_zero (h : tick ≠ 0) : s.scrollTick tick = { s with
    scrollAcc := 0, hostOut := if s.hostSuspended then s.hostOut else s.hostOut ++ [.move 0 0 tick] } := by
  rw [State.scrollTick, if_neg h, emitMove_eq_ite]

/-- R262: held, with a primary tick. -/
theorem scrollHeld_primary (h : tdiv dy scrollDiv ≠ 0) : s.scrollHeld dy = { s with
    scrollAcc := 0,
    hostOut := if s.hostSuspended then s.hostOut else s.hostOut ++ [.move 0 0 (tdiv dy scrollDiv)] } := by
  rw [State.scrollHeld, if_neg h, scrollTick_of_ne_zero h]

/-- R262: held, and the sum stays below a tick: only the accumulator changes. -/
theorem scrollHeld_accumulates (h : tdiv dy scrollDiv = 0) (hsum : tdiv (s.scrollAcc + dy) scrollDiv = 0) :
    s.scrollHeld dy = { s with scrollAcc := s.scrollAcc + dy } := by
  rw [State.scrollHeld, if_pos h, State.scrollTick, if_pos hsum]

/-- R262: held, and the sum reaches a tick. -/
theorem scrollHeld_reaches (h : tdiv dy scrollDiv = 0) (hsum : tdiv (s.scrollAcc + dy) scrollDiv ≠ 0) :
    s.scrollHeld dy = { s with
      scrollAcc := 0, hostOut := if s.hostSuspended then s.hostOut else
        s.hostOut ++ [.move 0 0 (tdiv (s.scrollAcc + dy) scrollDiv)] } := by
  rw [State.scrollHeld, if_pos h, scrollTick_of_ne_zero hsum]

/-- R262: not held, with motion. -/
theorem scrollFree_moves (h : moves dx dy = true) : s.scrollFree dx dy = { s with
    scrollAcc := 0, hostOut := if s.hostSuspended then s.hostOut else s.hostOut ++ [.move dx dy 0] } := by
  rw [State.scrollFree, if_pos h, emitMove_eq_ite]

/-- R268: not held, without motion. -/
theorem scrollFree_still (h : moves dx dy = false) : s.scrollFree dx dy = { s with scrollAcc := 0 } := by
  rw [State.scrollFree, if_neg (by simp [h])]

end ScrollCases

/-- Settles O46: the branches of SE_STEP, one by one. -/
theorem scrollStep : Obligations.ScrollStep := by
  intro btn dx dy s moved shown
  have hmoved : moves dx dy = moved := moves_eq_decide dx dy
  refine ⟨fun hx hcfg htick => ?primary, fun hx hcfg htick hsum => ?accumulates,
    fun hx hcfg htick hsum => ?reaches, fun hfree hmoves => ?moves, fun hfree hstill => ?still⟩
  case primary => rw [exec_seStep_held (held_eq_true hx hcfg), scrollHeld_primary htick, hmoved]; rfl
  case accumulates => rw [exec_seStep_held (held_eq_true hx hcfg), scrollHeld_accumulates htick hsum, hmoved]
  case reaches => rw [exec_seStep_held (held_eq_true hx hcfg), scrollHeld_reaches htick hsum, hmoved]; rfl
  case moves => rw [exec_seStep_free (held_eq_false hfree), scrollFree_moves (hmoved.trans hmoves), hmoved]
  case still => rw [exec_seStep_free (held_eq_false hfree), scrollFree_still (hmoved.trans hstill), hmoved]

/-! ## The bound of the accumulator -/

section ScrollBound

variable {s : State} {dy : Int}

/-- R264: with the role held the accumulator ends in -7..7, whatever it was. -/
theorem scrollHeld_scrollAcc_bound (s : State) (dy : Int) :
    -7 ≤ (s.scrollHeld dy).scrollAcc ∧ (s.scrollHeld dy).scrollAcc ≤ 7 := by
  by_cases htick : tdiv dy scrollDiv = 0
  · by_cases hsum : tdiv (s.scrollAcc + dy) scrollDiv = 0
    · rw [scrollHeld_accumulates htick hsum]
      exact tdiv_eq_zero hsum
    · rw [scrollHeld_reaches htick hsum]
      simp
  · rw [scrollHeld_primary htick]
    simp

/-- R264: from -7..7, without a primary tick, SE_STEP shows nothing or a tick of 1 or -1. -/
theorem scrollHeld_hostOut_unit (hlow : -7 ≤ s.scrollAcc) (hhigh : s.scrollAcc ≤ 7) (htick : tdiv dy scrollDiv = 0) :
    (s.scrollHeld dy).hostOut = s.hostOut ∨ (s.scrollHeld dy).hostOut = s.hostOut ++ [.move 0 0 1] ∨
      (s.scrollHeld dy).hostOut = s.hostOut ++ [.move 0 0 (-1)] := by
  by_cases hsum : tdiv (s.scrollAcc + dy) scrollDiv = 0
  · rw [scrollHeld_accumulates htick hsum]
    exact .inl rfl
  · obtain ⟨hdyLow, hdyHigh⟩ := tdiv_eq_zero htick
    rw [scrollHeld_reaches htick hsum]
    cases s.hostSuspended with
    | true => exact .inl rfl
    | false =>
      rcases tdiv_scrollDiv_unit (by omega) (by omega) hsum with hunit | hunit <;> rw [hunit]
      · exact .inr (.inl rfl)
      · exact .inr (.inr rfl)

end ScrollBound

/-- Settles O47: held, by the two facts above; not held, the accumulator is cleared. -/
theorem scrollBound : Obligations.ScrollBound := by
  intro btn dx dy s
  cases hheld : s.held btn with
  | true =>
    exact ⟨_, exec_seStep_held hheld, scrollHeld_scrollAcc_bound s dy,
      fun hlow hhigh _ _ htick => scrollHeld_hostOut_unit hlow hhigh htick⟩
  | false =>
    refine ⟨_, exec_seStep_free hheld, ?_, fun _ _ hx hcfg _ => ?_⟩
    · rw [scrollFree_eq_shown]
      simp
    · exact absurd (held_eq_true hx hcfg) (by simp [hheld])

/-! ## The sequences of R265 and R266 -/

section ScrollSequences

variable {s : State} {btn : Buttons} {dx dy tick : Int}

/-- R265: a delta below 8 from an empty accumulator is only added to it. -/
theorem exec_seStep_from_zero (hheld : s.held btn = true) (hacc : s.scrollAcc = 0) (htick : tdiv dy scrollDiv = 0) :
    exec (.seStep btn dx dy) s = .next { s with scrollAcc := dy, ret := .flag (moves dx dy) } := by
  rw [exec_seStep_held hheld, scrollHeld_accumulates htick (by rw [hacc, zero_add, htick]), hacc, zero_add]

/-- R262: a listening host sees the primary tick. -/
theorem exec_seStep_primary (hheld : s.held btn = true) (hshown : s.hostSuspended = false)
    (htick : tdiv dy scrollDiv = tick) (hne : tick ≠ 0) : exec (.seStep btn dx dy) s = .next { s with
      scrollAcc := 0, hostOut := s.hostOut ++ [.move 0 0 tick], ret := .flag (moves dx dy) } := by
  subst htick
  rw [exec_seStep_held hheld, scrollHeld_primary hne, if_neg (by simp [hshown])]

/-- R262: a listening host sees the accumulator's tick. -/
theorem exec_seStep_reaches (hheld : s.held btn = true) (hshown : s.hostSuspended = false)
    (htick : tdiv dy scrollDiv = 0) (hsum : tdiv (s.scrollAcc + dy) scrollDiv = tick) (hne : tick ≠ 0) :
    exec (.seStep btn dx dy) s = .next { s with
      scrollAcc := 0, hostOut := s.hostOut ++ [.move 0 0 tick], ret := .flag (moves dx dy) } := by
  subst hsum
  rw [exec_seStep_held hheld, scrollHeld_reaches htick hne, if_neg (by simp [hshown])]

/-- R266: 6 and 6 reach 12: one tick of 1, and the accumulator is empty again. -/
theorem execAll_six_six (hheld : s.held btn = true) (hacc : s.scrollAcc = 0) (hshown : s.hostSuspended = false)
    (is : List Instr) : execAll (.seStep btn 0 6 :: .seStep btn 0 6 :: is) s = execAll is { s with
      hostOut := s.hostOut ++ [.move 0 0 1], ret := .flag true } := by
  have hsum : tdiv (6 + 6) scrollDiv = 1 := by decide
  rw [execAll_cons _ (exec_seStep_from_zero hheld hacc rfl)]
  refine Eq.trans (execAll_cons is (exec_seStep_reaches hheld hshown rfl hsum one_ne_zero)) ?_
  rw [hacc]
  rfl

/-- R265: 7 then 9: the primary tick of 9, and the 7 is dropped. -/
theorem execAll_seven_nine (hheld : s.held btn = true) (hacc : s.scrollAcc = 0) (hshown : s.hostSuspended = false) :
    execAll [.seStep btn 0 7, .seStep btn 0 9] s = .next { s with
      hostOut := s.hostOut ++ [.move 0 0 1], ret := .flag true } := by
  rw [execAll_cons _ (exec_seStep_from_zero hheld hacc rfl)]
  refine Eq.trans (execAll_cons [] (exec_seStep_primary (tick := 1) hheld hshown rfl one_ne_zero)) ?_
  rw [hacc]
  rfl

end ScrollSequences

/-- Settles O48: 6, 6 twice, and 7 then 9. -/
theorem scrollExample : Obligations.ScrollExample := by
  intro btn s hx hcfg hacc hshown
  have hheld : s.held btn = true := held_eq_true hx hcfg
  refine ⟨?_, execAll_seven_nine hheld hacc hshown⟩
  rw [execAll_six_six hheld hacc hshown]
  refine (execAll_six_six (s := { s with hostOut := s.hostOut ++ [.move 0 0 1], ret := .flag true })
    hheld hacc hshown []).trans ?_
  rw [List.append_assoc]
  rfl

end Sys2Proof.Machine

/-! PROOFS. The statements of spec/47_idle_timer.md: the idle timer's two operations (O49) and the number of nudges a
quiet time gives (O50). -/

namespace Sys2Proof.Machine

open Sys2Proof Sys2Proof.Config

/-! ## The timer's operations -/

section IdleTimer

variable {s : State}

/-- R272: when a nudge is due. -/
theorem nudgeDue_iff : s.nudgeDue = true ↔ s.cfgJiggle = true ∧ s.hostSuspended = false ∧ s.jigN < s.par.jigMax ∧
    s.now - s.tLast > (s.jigN + 1) * s.par.jigStep := by
  simp [State.nudgeDue, and_assoc]

/-- R272: a nudge that is due goes out and is counted. -/
theorem exec_itStep_due (h : s.nudgeDue = true) : exec .itStep s = .next { s with
    hostOut := s.hostOut ++ [.move s.par.jigAmp 0 0, .move (-s.par.jigAmp) 0 0], jigN := s.jigN + 1 } :=
  congrArg Host.Outcome.next (if_pos h)

/-- R272: without a nudge due IT_STEP does nothing. -/
theorem exec_itStep_quiet (h : ¬ s.nudgeDue = true) : exec .itStep s = .next s :=
  congrArg Host.Outcome.next (if_neg h)

end IdleTimer

/-- Settles O49. -/
theorem idleTimer : Obligations.IdleTimer := fun s =>
  ⟨exec_itRealEvent true s, exec_itRealEvent false s, fun hdue => exec_itStep_due (nudgeDue_iff.mpr hdue),
    fun hquiet => exec_itStep_quiet (mt nudgeDue_iff.mp hquiet)⟩

/-! ## A row of calls -/

section Nudges

variable {s : State}

/-- The state after `k` more nudges (R272); `exec_itStep_nudge` ties one of them to IT_STEP. -/
def State.nudged (k : Nat) (s : State) : State := { s with
  jigN := s.jigN + k,
  hostOut := s.hostOut ++ (List.replicate k [Event.move s.par.jigAmp 0 0, .move (-s.par.jigAmp) 0 0]).flatten }

/-- How many nudges a quiet time admits (R275, R276); `nudgeDue_iff_lt` ties it to the test of IT_STEP. -/
def State.nudgeBound (s : State) : Nat :=
  min s.par.jigMax ((s.now - s.tLast + s.par.jigStep - 1) / s.par.jigStep - 1)

theorem nudged_zero (s : State) : s.nudged 0 = s := by simp [State.nudged]

theorem nudged_nudged (j k : Nat) (s : State) : (s.nudged j).nudged k = s.nudged (j + k) := by
  simp [State.nudged, Nat.add_assoc, ← List.flatten_append]

/-- R276: the thresholds passed before the `j`-th are those strictly below the quiet time. -/
theorem lt_thresholds_iff {j d step : Nat} (hstep : 0 < step) : j < (d + step - 1) / step - 1 ↔ (j + 1) * step < d := by
  have hdiv : j + 2 ≤ (d + step - 1) / step ↔ (j + 2) * step ≤ d + step - 1 := Nat.le_div_iff_mul_le hstep
  have hnext : (j + 2) * step = (j + 1) * step + step := Nat.succ_mul (j + 1) step
  omega

/-- R272, R276: a nudge is due as long as fewer are counted than the quiet time admits. -/
theorem nudgeDue_iff_lt (hcfg : s.cfgJiggle = true) (hawake : s.hostSuspended = false) (hstep : 0 < s.par.jigStep) :
    s.nudgeDue = true ↔ s.jigN < s.nudgeBound := by
  rw [nudgeDue_iff, State.nudgeBound, lt_min_iff, lt_thresholds_iff hstep]
  simp [hcfg, hawake]

theorem exec_itStep_nudge (h : s.nudgeDue = true) : exec .itStep s = .next (s.nudged 1) := exec_itStep_due h

/-- R275, R276: calls of IT_STEP from any count give the nudges still admitted, at most one a call. -/
theorem execAll_itStep (hcfg : s.cfgJiggle = true) (hawake : s.hostSuspended = false) (hstep : 0 < s.par.jigStep)
    (n : Nat) : execAll (List.replicate n .itStep) s = .next (s.nudged (min n (s.nudgeBound - s.jigN))) := by
  induction n generalizing s with
  | zero => rw [Nat.zero_min, nudged_zero]; rfl
  | succ n ih =>
    by_cases hdue : s.nudgeDue = true
    · have hlt : s.jigN < s.nudgeBound := (nudgeDue_iff_lt hcfg hawake hstep).mp hdue
      have hrest : execAll (List.replicate n .itStep) (s.nudged 1) =
          .next ((s.nudged 1).nudged (min n (s.nudgeBound - (s.jigN + 1)))) := ih hcfg hawake hstep
      have hcount : 1 + min n (s.nudgeBound - (s.jigN + 1)) = min (n + 1) (s.nudgeBound - s.jigN) := by omega
      rw [List.replicate_succ, execAll_cons _ (exec_itStep_nudge hdue), hrest, nudged_nudged, hcount]
    · have hnone : s.nudgeBound - s.jigN = 0 :=
        Nat.sub_eq_zero_of_le (Nat.not_lt.mp (mt (nudgeDue_iff_lt hcfg hawake hstep).mpr hdue))
      rw [List.replicate_succ, execAll_cons _ (exec_itStep_quiet hdue), ih hcfg hawake hstep, hnone, Nat.min_zero,
        Nat.min_zero]

/-- R273: a suspended host gets no nudge. -/
theorem execAll_itStep_suspended (h : s.hostSuspended = true) (n : Nat) :
    execAll (List.replicate n .itStep) s = .next s := by
  have hquiet : ¬ s.nudgeDue = true := by simp [nudgeDue_iff, h]
  induction n with
  | zero => rfl
  | succ n ih => rw [List.replicate_succ, execAll_cons _ (exec_itStep_quiet hquiet), ih]

end Nudges

/-- Settles O50: the calls after a quiet time begin with no nudge counted. -/
theorem nudgeCount : Obligations.NudgeCount := by
  refine fun n s => ⟨fun hcfg hawake hzero _ hstep => ?_, fun hsuspended => execAll_itStep_suspended hsuspended n⟩
  rw [execAll_itStep hcfg hawake hstep, State.nudged, State.nudgeBound, hzero, Nat.sub_zero, Nat.zero_add]

end Sys2Proof.Machine

/-! PROOFS. The statements of spec/48_main_loop.md: ML_ITER_BEGIN (O51), ML_RECOVER and the return from recovery (O52),
the first iteration (O53), the entries and the order of an iteration (O54), ML_CHECK (O56) and the time-outs of
get_report (O58). -/

namespace Sys2Proof.Machine

open Sys2Proof Sys2Proof.Config

/-! ## The operations of the Main Loop -/

section MainLoopOperations

variable {s : State}

/-- R281: an iteration recovers on a recorded error and on a session that does not run. -/
theorem mustRecover_iff : s.mustRecover = true ↔ s.err ≠ 0 ∨ s.sess = .idle ∨ s.sess = .desync := by
  simp [State.mustRecover, State.linkErrorFlag, or_assoc]

/-- R281: a running session becomes desynchronised, another stays as it is. -/
theorem desyncIfRunning_eq (x : Sess) :
    desyncIfRunning x = if x = .streaming ∨ x = .remotePolling then .desync else x := by
  cases x <;> rfl

/-- R281: the switches latched and the recovery begun. -/
theorem exec_mlIterBegin_recovers (h : s.mustRecover = true) : exec .mlIterBegin s = .next { s with
    cfgSwap := s.inSwap, cfgJiggle := s.inJiggle, cfgScroll := s.inScroll,
    sess := desyncIfRunning s.sess, loopState := .recovering } :=
  congrArg Host.Outcome.next (if_pos h)

/-- R281: the switches latched, and nothing else. -/
theorem exec_mlIterBegin_runs (h : ¬ s.mustRecover = true) : exec .mlIterBegin s = .next { s with
    cfgSwap := s.inSwap, cfgJiggle := s.inJiggle, cfgScroll := s.inScroll } :=
  congrArg Host.Outcome.next (if_neg h)

/-- R281, R341: an idle session recovers, and stays idle. -/
theorem exec_mlIterBegin_idle (h : s.sess = .idle) : exec .mlIterBegin s = .next { s with
    cfgSwap := s.inSwap, cfgJiggle := s.inJiggle, cfgScroll := s.inScroll, loopState := .recovering } := by
  rw [exec_mlIterBegin_recovers (mustRecover_iff.mpr (.inr (.inl h)))]
  simp [h, desyncIfRunning]

/-- R290, R310: with the interrupt off the fall of the clock is no edge. -/
theorem takeRecovery_eq (s : State) : s.takeRecovery = { s with
    rxIe := false, rxPos := 0, rxAcc := 0x00, rxPar := true, rxPending := false,
    hClk := .low, hDat := .rel, clkPrev := false, err := 0, mb := [] } := by
  rw [State.takeRecovery, State.busStop, drvClk_of_disabled rfl, wiredAnd_low_left]
  rfl

theorem exec_mlRecover (s : State) : exec .mlRecover s = .next { s with
    rxIe := false, rxPos := 0, rxAcc := 0x00, rxPar := true, rxPending := false,
    hClk := .low, hDat := .rel, clkPrev := false, err := 0, mb := [] } :=
  congrArg Host.Outcome.next (takeRecovery_eq s)

/-- R284: when a heartbeat is due. -/
theorem heartbeatDue_iff : s.heartbeatDue = true ↔ s.par.hbEnable = true ∧ s.par.mode = .stream ∧
    s.hbN < s.par.hbMax ∧ s.now - s.tHb ≥ s.par.hbPeriod := by
  simp [State.heartbeatDue, and_assoc]

/-- R284: a heartbeat that is due is counted, and its request sent. -/
theorem exec_mlHeartbeat_due (h : s.heartbeatDue = true) : exec .mlHeartbeat s = .next { s with
    hbN := s.hbN + 1, tHb := s.now,
    ctl := .op (.sendCmd s.par.cmdStatus s.par.tAck) :: .k .hbRequested :: s.ctl } :=
  congrArg Host.Outcome.next (if_pos h)

/-- R284: one that is not due is `ok` at once. -/
theorem exec_mlHeartbeat_quiet (h : ¬ s.heartbeatDue = true) :
    exec .mlHeartbeat s = .next { s with ret := .status true } :=
  congrArg Host.Outcome.next (if_neg h)

/-- R285: get_report in Remote-Polling mode begins with its request. -/
theorem exec_getReport_remote (hmode : s.par.mode = .remote) : exec .getReport s = .next { s with
    repN := 0, ctl := .op (.sendCmd s.par.cmdReadData s.par.tAck) :: .k .repRequested :: s.ctl } := by
  simp [exec, execGetReport, hmode, State.callReadData, State.call]

/-- R285: in Streaming mode it begins with the wait for the first byte. -/
theorem exec_getReport_stream (hmode : s.par.mode = .stream) : exec .getReport s = .next { s with
    repN := 0, ctl := .op (.mbWait s.par.tPoll) :: .k (.repByte false) :: s.ctl } := by
  simp [exec, execGetReport, hmode, State.call]

end MainLoopOperations

/-- Settles O51: the condition of R281 decides. -/
theorem iterationBegin : Obligations.IterationBegin := by
  refine fun s => ⟨fun hmust => ?_, fun herr hidle hdesync => exec_mlIterBegin_runs fun hmust => ?_⟩
  · rw [exec_mlIterBegin_recovers (mustRecover_iff.mpr hmust), desyncIfRunning_eq]
  · rcases mustRecover_iff.mp hmust with h | h | h
    exacts [h herr, hidle h, hdesync h]

/-- Settles O56. -/
theorem overflowCheck : Obligations.OverflowCheck := fun _ => ⟨exec_mlCheck_overflow, exec_mlCheck_ok⟩

/-! ## The order of an iteration -/

section Iteration

variable {s : State} {rest : List Task}

/-- R280, R341: with nothing left to do the loop context begins an iteration. -/
theorem loopStep_begins (hctl : s.ctl = []) :
    s.loopStep = .next { s with ctl := [.op .mlIterBegin, .k .liBegun] } := by
  simp [loopStep_nil hctl, exec, execLoopIteration, State.call, hctl]

/-- R281, R341: the switches latched and the recovery begun, as a move. -/
theorem loopStep_mlIterBegin_idle (hctl : s.ctl = .op .mlIterBegin :: rest) (hidle : s.sess = .idle) :
    s.loopStep = .next { s with
      cfgSwap := s.inSwap, cfgJiggle := s.inJiggle, cfgScroll := s.inScroll, loopState := .recovering, ctl := rest } :=
  (loopStep_op hctl).trans (exec_mlIterBegin_idle hidle)

/-- R280: the Main Loop's state after ML_ITER_BEGIN decides between the recovery and the heartbeat. -/
theorem loopStep_liBegun_recovering (hctl : s.ctl = .k .liBegun :: rest) (hstate : s.loopState = .recovering) :
    s.loopStep = .next { s with ctl := .op .mlRecover :: .op .bringUp :: .k .liRecovered :: rest } := by
  simp [loopStep_k hctl, State.resume, resumeLiBegun, hstate, State.call]

theorem loopStep_liBegun_normal (hctl : s.ctl = .k .liBegun :: rest) (hstate : s.loopState = .normal) :
    s.loopStep = .next { s with ctl := .op .mlHeartbeat :: .k .liBeat :: rest } := by
  simp [loopStep_k hctl, State.resume, resumeLiBegun, hstate, State.call]

/-- R291, R312: after the bring-up the recovery is over, whatever the bring-up returned. -/
theorem loopStep_liRecovered (hctl : s.ctl = .k .liRecovered :: rest) :
    s.loopStep = .next { s with loopState := .normal, ctl := .op .itStep :: rest } := loopStep_k hctl

/-- R280: after a heartbeat that is `ok` a Report is sought, after another none. -/
theorem loopStep_liBeat (hctl : s.ctl = .k .liBeat :: rest) : s.loopStep = .next { s with
    ctl := if s.ret.isOk then .op .getReport :: .k .liGot :: rest else .op .itStep :: rest } := by
  rw [loopStep_k hctl, State.resume, resumeLiBeat]
  split <;> rfl

/-- R280, R289: a Report got is processed, and IT_STEP comes in any case. -/
theorem loopStep_liGot (hctl : s.ctl = .k .liGot :: rest) : s.loopStep = .next { s with
    ctl := if s.ret.gotReport then .op .processReport :: .op .itStep :: rest else .op .itStep :: rest } := by
  rw [loopStep_k hctl, State.resume, resumeLiGot]
  split <;> rfl

end Iteration

/-- Settles O52. -/
theorem recover : Obligations.Recover := fun s => ⟨exec_mlRecover s, fun _ => loopStep_liRecovered⟩

/-- Settles O53: from an idle session ML_ITER_BEGIN finds it must recover, and leaves the session idle. -/
theorem firstIteration : Obligations.FirstIteration := by
  intro s hslot hctl hidle
  rw [runMoves_loop_cons hslot (loopStep_begins hctl)]
  refine Eq.trans (runMoves_loop_cons hslot (loopStep_mlIterBegin_idle rfl hidle)) ?_
  refine Eq.trans (runMoves_loop_cons hslot (loopStep_liBegun_recovering rfl rfl)) ?_
  exact runMoves_loop_cons hslot ((loopStep_op rfl).trans (exec_mlRecover _))

/-- Settles O54. -/
theorem mainLoopEntries : Obligations.MainLoopEntries := by
  refine fun s => ⟨rfl, rfl, exec_getReport_remote, exec_getReport_stream,
    fun hdue => exec_mlHeartbeat_due (heartbeatDue_iff.mpr hdue),
    fun hquiet => exec_mlHeartbeat_quiet (mt heartbeatDue_iff.mp hquiet),
    fun rest hctl => ⟨loopStep_liBegun_recovering hctl, loopStep_liBegun_normal hctl⟩,
    fun rest hctl => ⟨fun hret => ?beatOk, fun hret => ?beatFailed⟩,
    fun rest hctl => ⟨fun r hret => ?got, fun hret => ?gotNone⟩⟩
  case beatOk => rw [loopStep_liBeat hctl, hret]; rfl
  case beatFailed => rw [loopStep_liBeat hctl, hret]; rfl
  case got => rw [loopStep_liGot hctl, hret]; rfl
  case gotNone => rw [loopStep_liGot hctl, hret]; rfl

/-! ## The time-outs of get_report -/

section ReportTimeouts

variable {s : State} {rest : List Task} {b : Byte} {ms : List Byte} {polled : Bool} {t wait : Nat}

/-- R146: with the mailbox empty mb_wait ends with `none` once its time has passed. -/
theorem runMoves_mbWait_late (hslot : s.slot = none) (hctl : s.ctl = .op (.mbWait t) :: rest) (hmb : s.mb = [])
    (hlate : t ≤ wait) : runMoves [.loop, .clock wait, .loop] s = .next { s with
      now := s.now + wait, ret := .byte none, ctl := rest } := by
  have hcall : s.loopStep = .next { s with ctl := .k (.mbPoll (s.now + t)) :: rest } := loopStep_op hctl
  have hpoll := loopStep_mbPoll_empty
    (s := { s with now := s.now + wait, ctl := .k (.mbPoll (s.now + t)) :: rest }) rfl hmb
  rw [if_neg (Nat.not_lt.mpr (Nat.add_le_add_left hlate s.now))] at hpoll
  rw [runMoves_loop_cons hslot hcall]
  refine Eq.trans (runMoves_cons hslot rfl) ?_
  exact runMoves_loop_cons hslot hpoll

/-- R285, R286: a Report begun or requested whose next byte does not come. -/
theorem loopStep_repByte_late (hctl : s.ctl = .k (.repByte polled) :: rest) (hret : s.ret = .byte none)
    (hbegun : polled = true ∨ s.repN ≠ 0) :
    s.loopStep = .next { s with err := 0x06, sess := .desync, ret := .report none, ctl := rest } := by
  have hpartial : (polled || s.repN != 0) = true := by simpa using hbegun
  rw [loopStep_k hctl]
  simp only [State.resume, resumeRepByte, hret, Ret.byteGot, hpartial]
  rfl

/-- R285: a time-out before the first byte of a Report that was not requested. -/
theorem loopStep_repByte_quiet (hctl : s.ctl = .k (.repByte false) :: rest) (hret : s.ret = .byte none)
    (hn : s.repN = 0) : s.loopStep = .next { s with ret := .report none, ctl := rest } := by
  rw [loopStep_k hctl]
  simp only [State.resume, resumeRepByte, hret, Ret.byteGot, hn]
  rfl

/-- R285: a request that fails ends get_report; its send has recorded the error. -/
theorem loopStep_repRequested_fail (hctl : s.ctl = .k .repRequested :: rest) (hret : s.ret.isOk = false) :
    s.loopStep = .next { s with sess := .desync, ret := .report none, ctl := rest } :=
  (loopStep_k hctl).trans (congrArg _ (if_neg (by simp [hret])))

/-- R285, R286: the wait for a byte of a Report begun or requested, with none in time, as moves. -/
theorem runMoves_reportByte_late (hslot : s.slot = none)
    (hctl : s.ctl = .op (.mbWait t) :: .k (.repByte polled) :: rest) (hmb : s.mb = []) (hlate : t ≤ wait)
    (hbegun : polled = true ∨ s.repN ≠ 0) :
    runMoves [.loop, .clock wait, .loop, .loop] s = .next { s with
      now := s.now + wait, err := 0x06, sess := .desync, ret := .report none, ctl := rest } := by
  refine (runMoves_append (ns := [.loop]) (runMoves_mbWait_late hslot hctl hmb hlate)).trans ?_
  exact runMoves_loop_cons hslot (loopStep_repByte_late rfl rfl hbegun)

/-- R285: the wait for the first byte of a Report that was not requested, with none in time, as moves. -/
theorem runMoves_reportByte_quiet (hslot : s.slot = none)
    (hctl : s.ctl = .op (.mbWait t) :: .k (.repByte false) :: rest) (hmb : s.mb = []) (hlate : t ≤ wait)
    (hn : s.repN = 0) : runMoves [.loop, .clock wait, .loop, .loop] s = .next { s with
      now := s.now + wait, ret := .report none, ctl := rest } := by
  refine (runMoves_append (ns := [.loop]) (runMoves_mbWait_late hslot hctl hmb hlate)).trans ?_
  exact runMoves_loop_cons hslot (loopStep_repByte_quiet rfl rfl hn)

/-- R285: the first or the second byte of a Report, one waiting, is stored and the next waited for. -/
theorem runMoves_reportByte_next (hslot : s.slot = none)
    (hctl : s.ctl = .op (.mbWait t) :: .k (.repByte polled) :: rest) (hmb : s.mb = b :: ms) (hn : s.repN.val < 2) :
    runMoves [.loop, .loop, .loop] s = .next { s with
      mb := ms, rep := putReportByte s.rep s.repN.val b, repN := s.repN + 1, ret := .byte (some b),
      ctl := .op (.mbWait s.par.tRep) :: .k (.repByte polled) :: rest } :=
  (runMoves_reportByte hslot hctl hmb).trans (congrArg _ (storeReportByte_next polled b hn))

/-! R285, R286: get_report in Streaming mode, by the bytes that stand in the mailbox. -/

theorem runMoves_getReport_none (hslot : s.slot = none) (hctl : s.ctl = .op .getReport :: rest)
    (hmode : s.par.mode = .stream) (hmb : s.mb = []) (hlate : s.par.tPoll ≤ wait) :
    runMoves [.loop, .loop, .clock wait, .loop, .loop] s = .next { s with
      repN := 0, now := s.now + wait, ret := .report none, ctl := rest } := by
  rw [runMoves_loop_cons hslot (loopStep_getReport_stream hctl hmode)]
  exact runMoves_reportByte_quiet hslot rfl hmb hlate rfl

theorem runMoves_getReport_first {b0 : Byte} (hslot : s.slot = none) (hctl : s.ctl = .op .getReport :: rest)
    (hmode : s.par.mode = .stream) (hmb : s.mb = b0 :: ms) :
    runMoves [.loop, .loop, .loop, .loop] s = .next { s with
      mb := ms, rep := { s.rep with b0 := b0 }, repN := 1, ret := .byte (some b0),
      ctl := .op (.mbWait s.par.tRep) :: .k (.repByte false) :: rest } := by
  rw [runMoves_loop_cons hslot (loopStep_getReport_stream hctl hmode)]
  exact runMoves_reportByte_next hslot rfl hmb Nat.two_pos

theorem runMoves_getReport_second {b0 b1 : Byte} (hslot : s.slot = none) (hctl : s.ctl = .op .getReport :: rest)
    (hmode : s.par.mode = .stream) (hmb : s.mb = b0 :: b1 :: ms) :
    runMoves (List.replicate 7 .loop) s = .next { s with
      mb := ms, rep := { s.rep with b0 := b0, b1 := b1 }, repN := 2, ret := .byte (some b1),
      ctl := .op (.mbWait s.par.tRep) :: .k (.repByte false) :: rest } := by
  refine (runMoves_append (ns := [.loop, .loop, .loop]) (runMoves_getReport_first hslot hctl hmode hmb)).trans ?_
  exact runMoves_reportByte_next hslot rfl rfl Nat.one_lt_two

end ReportTimeouts

/-- Settles O58. -/
theorem reportTimeouts : Obligations.ReportTimeouts := by
  refine fun v b0 b1 wait rest s hslot => ⟨fun hctl hmode => ⟨runMoves_getReport_none hslot hctl hmode,
    fun hmb hlate => ?first, fun hmb hlate => ?second⟩, fun hctl => ⟨fun hret => ?failed, fun hret hmb hlate => ?polled⟩,
    fun polled hctl hret => ⟨loopStep_repByte_late hctl hret, fun hpolled hn => ?quiet⟩⟩
  case first =>
    refine (runMoves_append (ns := [.loop, .clock wait, .loop, .loop])
      (runMoves_getReport_first hslot hctl hmode hmb)).trans ?_
    exact runMoves_reportByte_late hslot rfl rfl hlate (.inr (by simp))
  case second =>
    refine (runMoves_append (ns := [.loop, .clock wait, .loop, .loop])
      (runMoves_getReport_second hslot hctl hmode hmb)).trans ?_
    exact runMoves_reportByte_late hslot rfl rfl hlate (.inr (by simp))
  case failed => exact loopStep_repRequested_fail hctl (by rw [hret]; rfl)
  case polled =>
    rw [runMoves_loop_cons hslot (loopStep_repRequested hctl (by rw [hret]; rfl))]
    exact runMoves_reportByte_late hslot rfl hmb hlate (.inl rfl)
  case quiet => exact loopStep_repByte_quiet (hpolled ▸ hctl) hret hn

end Sys2Proof.Machine

/-! PROOFS. The statement of spec/60_exceptions.md that the block never interrupts itself (O13). -/

namespace Sys2Proof.Machine

open Sys2Proof Sys2Proof.Config

/-! ## The pending edge through the steps of the loop context -/

/-- A step leaves the pending edge alone, or leaves the interrupt off; with the invariant after the step it makes no
edge pending, by `NoNewEdge.pending` (R307). -/
def NoNewEdge (s t : State) : Prop := t.rxPending = s.rxPending ∨ t.rxIe = false

section PendingEdge

variable {s t u : State} {rest : List Task}

/-- R55: with the interrupt off no edge is pending. -/
theorem NoNewEdge.pending (h : NoNewEdge s t) (ht : Inv t) (hpending : t.rxPending = true) : s.rxPending = true := by
  rcases h with hsame | hoff
  · exact hsame ▸ hpending
  · exact absurd (ht.pending hpending) (by simp [hoff])

theorem callStatusBytes_rxPending (s : State) (n : Nat) : (s.callStatusBytes n).rxPending = s.rxPending := by
  cases n <;> rfl

theorem storeReportByte_rxPending (s : State) (polled : Bool) (v : Byte) :
    (s.storeReportByte polled v).rxPending = s.rxPending := by
  unfold State.storeReportByte
  split <;> rfl

theorem bringUpAdvance_rxPending (s : State) : s.bringUpAdvance.rxPending = s.rxPending := by
  unfold State.bringUpAdvance
  split
  case h_4 => split <;> rfl
  all_goals rfl

/-- R307: no return point touches the pending edge. -/
theorem resume_rxPending (c : Cont) (s : State) : (s.resume c).rxPending = s.rxPending := by
  cases c <;> simp only [State.resume]
  case mbPoll => unfold resumeMbPoll; split <;> rfl
  case cmdSent => unfold resumeCmdSent; split <;> rfl
  case hsReply => unfold resumeHsReply; split <;> rfl
  case resetBat => unfold resumeResetBat; split <;> rfl
  case resetId => unfold resumeResetId; split <;> rfl
  case rateArg => unfold resumeRateArg; split <;> rfl
  case bringUpNext => unfold resumeBringUpNext; split <;> [exact bringUpAdvance_rxPending s; rfl]
  case hbRequested => unfold resumeHbRequested; split <;> [exact callStatusBytes_rxPending s _; rfl]
  case hbByte => unfold resumeHbByte; split <;> [exact callStatusBytes_rxPending s _; rfl]
  case repRequested => unfold resumeRepRequested; split <;> rfl
  case repByte =>
    unfold resumeRepByte
    split
    · exact storeReportByte_rxPending s _ _
    · split <;> rfl
  case prDecoded => unfold resumePrDecoded; split <;> rfl
  case prChecked => unfold resumePrChecked; split <;> rfl
  case prTranslated => unfold resumePrTranslated; split <;> rfl
  case liBegun => unfold resumeLiBegun; split <;> rfl
  case liBeat => unfold resumeLiBeat; split <;> rfl
  case liGot => unfold resumeLiGot; split <;> rfl
  case busStopDat | prScrolled | prEdged | liRecovered => rfl

/-- R307: no operation that the loop context's procedures call touches the pending edge. -/
theorem exec_ofLoop_rxPending {i : Instr} (hi : Instr.ofLoop i = true) (h : exec i s = .next t) :
    t.rxPending = s.rxPending := by
  cases i
  case txSend | rtTranslate =>
    obtain ⟨-, rfl⟩ := next_of_enabled h
    rfl
  case ssPing k =>
    obtain ⟨b, rfl⟩ := sendPing_next h
    rfl
  case xdDecode =>
    cases h
    obtain ⟨m, r, v, heq⟩ := xdDecode_eq s
    rw [heq]
  case seStep btn dx dy =>
    cases h
    split
    · obtain ⟨a, es, heq⟩ := scrollHeld_eq s dy
      rw [heq]
      rfl
    · obtain ⟨es, heq⟩ := scrollFree_eq s dx dy
      rw [heq]
      rfl
  case ssRate | ssEnable | mlIterBegin | mlHeartbeat | mlCheck | getReport | itRealEvent | itStep =>
    cases h; split <;> rfl
  case mbWait | sendCmd | ssReset | ssMode | bringUp | processReport | rtEdges => cases h; rfl
  all_goals cases hi

/-- R183, R191: a wait of a send, aborted or not, leaves the interrupt enable alone. -/
theorem txWait_rxIe (c : Bool) (hu : u.rxIe = s.rxIe) : (s.txWait c u).rxIe = s.rxIe := by
  rcases txWait_cases s u c with ⟨-, heq⟩ | ⟨-, -, heq⟩ | ⟨-, -, heq⟩ <;> rw [heq]
  · exact hu
  · rfl

theorem txNextBit_rxIe (s : State) : s.txNextBit.rxIe = s.rxIe := by
  unfold State.txNextBit
  split <;> rfl

theorem inPhase_rxIe {p : TxPhase} (h : s.inPhase p u = .next t) (hu : u.rxIe = s.rxIe) : t.rxIe = s.rxIe := by
  obtain ⟨-, rfl⟩ := inPhase_next h
  exact hu

/-- R182 to R189: of the operations of a send only TX_DONE enables the interrupt. -/
theorem exec_phase_rxIe {i : Instr} (hi : s.txPhase.instr = some i) (hdone : s.txPhase ≠ .done)
    (h : exec i s = .next t) : t.rxIe = s.rxIe := by
  cases hp : s.txPhase <;> rw [hp] at hi hdone <;> cases hi
  case req1 | req2 | req3 | bitSet | stop => exact inPhase_rxIe h rfl
  case waitDev | bitHi => exact inPhase_rxIe h (txWait_rxIe _ rfl)
  case bitLo => exact inPhase_rxIe h (txWait_rxIe _ (txNextBit_rxIe s))
  case ackLow | waitAck =>
    obtain ⟨-, c, p, rfl⟩ := txWaitAck_next h
    exact txWait_rxIe c rfl
  case done => exact absurd rfl hdone

/-- R190, R194: a send keeps the interrupt off, and TX_DONE, which enables it, drives no line. -/
theorem exec_phase_noNewEdge (hinv : Inv s) {i : Instr} (hi : s.txPhase.instr = some i) (h : exec i s = .next t) :
    NoNewEdge s t := by
  by_cases hdone : s.txPhase = .done
  · rw [hdone] at hi
    cases hi
    obtain ⟨-, rfl⟩ := inPhase_next h
    exact .inl (Bool.and_true _)
  · have hon : s.txPhase ≠ .off := fun hoff => by rw [instr_eq_none.mpr hoff] at hi; cases hi
    exact .inr ((exec_phase_rxIe hi hdone h).trans (hinv.exclusion hon).1)

/-- R181, R290, R307: an operation on top of the control stack of a run; TX_START and ML_RECOVER turn the interrupt
off. -/
theorem RunInv.op_noNewEdge (hrun : RunInv s) {i : Instr} (hc : s.ctl = .op i :: rest)
    (h : exec i { s with ctl := rest } = .next t) : NoNewEdge s t := by
  have hctl : ctlOk (.op i :: rest) = true := hc ▸ hrun.ctl
  rcases ctlOk_op_cases hctl with ⟨b, rfl, -⟩ | rfl | hi
  · obtain ⟨-, rfl⟩ := next_of_enabled h
    exact .inr rfl
  · cases h
    exact .inr rfl
  · exact .inl (exec_ofLoop_rxPending (s := { s with ctl := rest }) hi h)

/-- R307: every step of the loop context, by what stands on top of its control stack. -/
theorem RunInv.loopStep_noNewEdge (hrun : RunInv s) (h : s.loopStep = .next t) : NoNewEdge s t := by
  match hc : s.ctl with
  | [] =>
    cases (loopStep_nil hc).symm.trans h
    exact .inl rfl
  | .op i :: rest => exact hrun.op_noNewEdge hc (loopStep_op hc ▸ h)
  | .txRun :: rest =>
    cases hi : s.txPhase.instr with
    | some i => exact exec_phase_noNewEdge hrun.inv hi (loopStep_txRun hc hi ▸ h)
    | none =>
      cases (loopStep_txRun_off hc (instr_eq_none.mp hi)).symm.trans h
      exact .inl rfl
  | .k c :: rest =>
    cases (loopStep_k hc).symm.trans h
    exact .inl (resume_rxPending c { s with ctl := rest })

/-- D36 of spec/92_eei_decisions.md, R192: while the block holds the clock low the interrupt is off. -/
theorem RunInv.rxIe_of_hClk_low (h : RunInv s) (hlow : s.hClk = .low) : s.rxIe = false := by
  by_contra hon
  obtain ⟨hrel, -⟩ := h.listening (by simpa using hon)
  rw [hlow] at hrel
  cases hrel

end PendingEdge

/-- Settles O13: a step of the loop context leads to a state of a run again, which never holds the clock low with the
interrupt on. -/
theorem neverInterruptsItself : Obligations.NeverInterruptsItself := by
  intro s t hrun hstep
  obtain ⟨t', hstep', hrun'⟩ := hrun.loopStep
  obtain rfl : t' = t := by rw [hstep] at hstep'; cases hstep'; rfl
  exact ⟨(hrun.loopStep_noNewEdge hstep).pending hrun'.inv, fun _ => hrun'.rxIe_of_hClk_low⟩

end Sys2Proof.Machine
